-- ==== Sys2Proof/Word.lean ====
section
/-! DEFINITION. The plain word types of the engine. Bit 0 is the least significant bit everywhere (R7). -/

namespace Sys2Proof

/-- A memory cell of VRAM, OAM or PALRAM, and a register latch (R21, R70). -/
abbrev Byte := BitVec 8

/-- A display-ready pixel of `PIXW` bits (R6, R40); a 16-bit pixel stands in the low half (log 3). -/
abbrev Pixel := BitVec 32

end Sys2Proof
end

