-- ==== Sys2Proof/Syntax.lean ====
section
/-! DEFINITION. The command set: one constructor of `Instr` per row of the opcode table (R140), the three encoded
forms a command has (R110), the sixteen sequencer phases (R121) and the reasons a word is no command (R130). -/

namespace Sys2Proof

/-- One command: eight timed events (R112), five screen-mask commands (R120), twenty-four sequencer operations (R121). -/
inductive Instr where
  /-- `EV_LCDC`, R152. -/
  | evLcdc (clock : BitVec 32) (data : Byte)
  /-- `EV_SCX`, R153. -/
  | evScx (clock : BitVec 32) (data : Byte)
  /-- `EV_SCY`, R154. -/
  | evScy (clock : BitVec 32) (data : Byte)
  /-- `EV_WX`, R155. -/
  | evWx (clock : BitVec 32) (data : Byte)
  /-- `EV_BGP`, R156. -/
  | evBgp (clock : BitVec 32) (data : Byte)
  /-- `EV_OBP0`, R157. -/
  | evObp0 (clock : BitVec 32) (data : Byte)
  /-- `EV_OBP1`, R158. -/
  | evObp1 (clock : BitVec 32) (data : Byte)
  /-- `EV_PALBYTE`, R159; `offset` names the byte of palette memory (R113). -/
  | evPalbyte (clock : BitVec 32) (offset : BitVec 7) (data : Byte)
  /-- `MASK_NORMAL`, R304; `k` is carried and ignored (R132). -/
  | maskNormal (k : BitVec 15)
  /-- `MASK_FROZEN`, R305; `k` is carried and ignored (R132). -/
  | maskFrozen (k : BitVec 15)
  /-- `MASK_BLACK`, R306; `k` is carried and ignored (R132). -/
  | maskBlack (k : BitVec 15)
  /-- `MASK_COLOR`, R307; `k` indexes the colour lookup table. -/
  | maskColor (k : BitVec 15)
  /-- `MASK_WHITE`, R308; any `mode` of 4 to 7 (R133). -/
  | maskWhite (mode : BitVec 3) (k : BitVec 15)
  /-- `IDLE`, R300. -/
  | idle
  /-- `FRAME_BEGIN`, R301. -/
  | frameBegin
  /-- `MASK_DISPATCH`, R303. -/
  | maskDispatch
  /-- `BUF_LOCK`, R310. -/
  | bufLock
  /-- `FILL`, R309. -/
  | fill
  /-- `FRAME_LOAD`, R314. -/
  | frameLoad
  /-- `PAL_RELOAD`, R185. -/
  | palReload
  /-- `LINE_START`, R151. -/
  | lineStart
  /-- `LINE_BLANK`, R316. -/
  | lineBlank
  /-- `OBJ_SEARCH`, R210. -/
  | objSearch
  /-- `PIXEL`, R286. -/
  | pixel
  /-- `BG_FETCH`, R241. -/
  | bgFetch
  /-- `WIN_FETCH`, R250. -/
  | winFetch
  /-- `OBJ_PICK`, R221. -/
  | objPick
  /-- `PRIO_MUX`, R280. -/
  | prioMux
  /-- `PAL_LOOKUP`, R282. -/
  | palLookup
  /-- `PIX_WRITE`, R285. -/
  | pixWrite
  /-- `LINE_END`, R317. -/
  | lineEnd
  /-- `BUF_UNLOCK`, R310. -/
  | bufUnlock
  /-- `PRESENT`, R311. -/
  | present
  /-- `FRAME_END`, R312. -/
  | frameEnd
  /-- `BORDER_RENDER`, R340. -/
  | borderRender
  /-- `SET_COLOR_PALETTE`, R181. -/
  | setColorPalette
  /-- `SET_MONO_PALETTE`, R182. -/
  | setMonoPalette
  deriving DecidableEq, Repr

/-- An encoded command in one of the three command formats (R110). Which format a word has is known from where it
stands: a log holds `EVT` records, the selector is a `MASK` word, the sequencer holds `SEQ` codes. -/
inductive Code where
  | evt (w : BitVec 64)
  | mask (w : BitVec 18)
  | seq (w : BitVec 5)
  deriving DecidableEq, Repr

/-- Why a word is no command (R130). -/
inductive Reject where
  /-- An `EVT` word whose `target` is 8 to 15. -/
  | reservedTarget
  /-- An `EVT` word whose `zero` field is not 0. -/
  | zeroField
  /-- An `EVT` word of target 0 to 6 whose `offset` is not 0. -/
  | offsetField
  /-- A `SEQ` code `0x18` to `0x1F`. -/
  | reservedOperation
  /-- Bytes that are not 1 (`SEQ`), 3 (`MASK`) or 8 (`EVT`) long (log 13). -/
  | length
  /-- Bits above the format's own length are set in the last byte (log 13). -/
  | padding
  deriving DecidableEq, Repr

/-- The sixteen codes that can be the value of `phase` (R30, R121). -/
inductive Phase where
  | idle | frameBegin | maskDispatch | bufLock | fill | frameLoad | palReload | lineStart
  | lineBlank | objSearch | pixel | lineEnd | bufUnlock | present | frameEnd | borderRender
  deriving DecidableEq, Repr

/-- The three targets of a monochrome palette register (R182). -/
inductive MonoTarget where
  | bg | obj0 | obj1
  deriving DecidableEq, Repr

/-- The two event logs of a frame (R150). -/
inductive LogId where
  | rlog | plog
  deriving DecidableEq, Repr

end Sys2Proof
end

