-- ==== Sys2Proof/WellFormed.lean ====
section
/-! DEFINITION. Which terms of `Instr` stand for a command word. Every field but one has exactly the width of its
encoding, so the one check is that the mode of a `MASK_WHITE` is 4 to 7 (R120, R133). -/

namespace Sys2Proof

/-- The command has an encoding: a `MASK_WHITE` carries one of its own modes (R120). -/
def Instr.wf : Instr → Bool
  | .maskWhite mode _ => mode.getLsbD 2
  | _ => true

end Sys2Proof
end

