-- ==== Sys2Proof/Decode.lean ====
section
/-! DEFINITION. The decoder of the three command formats, total on any word and any bytes, rejecting by name (R111,
R112, R120, R121, R130); the encoder written from the same layouts; and the rows of the opcode table (R140). -/

namespace Sys2Proof

/-! ### Timed-event records (R111, R112) -/

/-- `clock`, bits 63:32 of an `EVT` record (R111). -/
def recClock (w : BitVec 64) : BitVec 32 := w.extractLsb' 32 32

/-- `target`, bits 31:28 of an `EVT` record (R111). -/
def recTarget (w : BitVec 64) : BitVec 4 := w.extractLsb' 28 4

/-- `zero`, bits 27:15 of an `EVT` record (R111). -/
def recZero (w : BitVec 64) : BitVec 13 := w.extractLsb' 15 13

/-- `offset`, bits 14:8 of an `EVT` record (R111). -/
def recOffset (w : BitVec 64) : BitVec 7 := w.extractLsb' 8 7

/-- `data`, bits 7:0 of an `EVT` record (R111). -/
def recData (w : BitVec 64) : Byte := w.extractLsb' 0 8

/-- The command of a well-formed register-event target (R112). -/
def registerEvent (target : BitVec 4) (clock : BitVec 32) (data : Byte) : Except Reject Instr :=
  if target = 0 then .ok (.evLcdc clock data)
  else if target = 1 then .ok (.evScx clock data)
  else if target = 2 then .ok (.evScy clock data)
  else if target = 3 then .ok (.evWx clock data)
  else if target = 4 then .ok (.evBgp clock data)
  else if target = 5 then .ok (.evObp0 clock data)
  else if target = 6 then .ok (.evObp1 clock data)
  else .error .reservedTarget

/-- Format `EVT` (R111 to R113, R130): reserved targets and non-zero reserved fields are refused. -/
def decodeEvt (w : BitVec 64) : Except Reject Instr :=
  if recTarget w = 7 then
    if recZero w = 0 then .ok (.evPalbyte (recClock w) (recOffset w) (recData w)) else .error .zeroField
  else if recTarget w > 7 then .error .reservedTarget
  else if recZero w ≠ 0 then .error .zeroField
  else if recOffset w ≠ 0 then .error .offsetField
  else registerEvent (recTarget w) (recClock w) (recData w)

/-- Format `MASK` (R120): every word is a command. -/
def decodeMask (w : BitVec 18) : Instr :=
  let mode : BitVec 3 := w.extractLsb' 15 3
  let k : BitVec 15 := w.extractLsb' 0 15
  if mode = 0 then .maskNormal k
  else if mode = 1 then .maskFrozen k
  else if mode = 2 then .maskBlack k
  else if mode = 3 then .maskColor k
  else .maskWhite mode k

/-- Format `SEQ` (R121): the codes `0x18` to `0x1F` are refused (R130). -/
def decodeSeq (w : BitVec 5) : Except Reject Instr :=
  match w with
  | 0x00#5 => .ok .idle
  | 0x01#5 => .ok .frameBegin
  | 0x02#5 => .ok .maskDispatch
  | 0x03#5 => .ok .bufLock
  | 0x04#5 => .ok .fill
  | 0x05#5 => .ok .frameLoad
  | 0x06#5 => .ok .palReload
  | 0x07#5 => .ok .lineStart
  | 0x08#5 => .ok .lineBlank
  | 0x09#5 => .ok .objSearch
  | 0x0A#5 => .ok .pixel
  | 0x0B#5 => .ok .bgFetch
  | 0x0C#5 => .ok .winFetch
  | 0x0D#5 => .ok .objPick
  | 0x0E#5 => .ok .prioMux
  | 0x0F#5 => .ok .palLookup
  | 0x10#5 => .ok .pixWrite
  | 0x11#5 => .ok .lineEnd
  | 0x12#5 => .ok .bufUnlock
  | 0x13#5 => .ok .present
  | 0x14#5 => .ok .frameEnd
  | 0x15#5 => .ok .borderRender
  | 0x16#5 => .ok .setColorPalette
  | 0x17#5 => .ok .setMonoPalette
  | _ => .error .reservedOperation

/-- The decoder: an encoded command, or the name of the reason it is none. -/
def decode : Code → Except Reject Instr
  | .evt w => decodeEvt w
  | .mask w => .ok (decodeMask w)
  | .seq w => decodeSeq w

/-- The `SEQ` code of a phase (R121). -/
def Phase.code : Phase → BitVec 5
  | .idle => 0x00
  | .frameBegin => 0x01
  | .maskDispatch => 0x02
  | .bufLock => 0x03
  | .fill => 0x04
  | .frameLoad => 0x05
  | .palReload => 0x06
  | .lineStart => 0x07
  | .lineBlank => 0x08
  | .objSearch => 0x09
  | .pixel => 0x0A
  | .lineEnd => 0x11
  | .bufUnlock => 0x12
  | .present => 0x13
  | .frameEnd => 0x14
  | .borderRender => 0x15

/-- The phase whose code this is, if it is the code of a phase (R121). -/
def Phase.ofCode (w : BitVec 5) : Option Phase :=
  match w with
  | 0x00#5 => some .idle
  | 0x01#5 => some .frameBegin
  | 0x02#5 => some .maskDispatch
  | 0x03#5 => some .bufLock
  | 0x04#5 => some .fill
  | 0x05#5 => some .frameLoad
  | 0x06#5 => some .palReload
  | 0x07#5 => some .lineStart
  | 0x08#5 => some .lineBlank
  | 0x09#5 => some .objSearch
  | 0x0A#5 => some .pixel
  | 0x11#5 => some .lineEnd
  | 0x12#5 => some .bufUnlock
  | 0x13#5 => some .present
  | 0x14#5 => some .frameEnd
  | 0x15#5 => some .borderRender
  | _ => none

/-! ### The encoder -/

/-- An `EVT` record from its fields (R111). -/
def evtWord (clock : BitVec 32) (target : BitVec 4) (offset : BitVec 7) (data : Byte) : BitVec 64 :=
  clock ++ target ++ 0#13 ++ offset ++ data

/-- A `MASK` word from its fields (R120). -/
def maskWord (mode : BitVec 3) (k : BitVec 15) : BitVec 18 := mode ++ k

/-- The word of a command (R111, R112, R120, R121). -/
def encode : Instr → Code
  | .evLcdc c d => .evt (evtWord c 0 0 d)
  | .evScx c d => .evt (evtWord c 1 0 d)
  | .evScy c d => .evt (evtWord c 2 0 d)
  | .evWx c d => .evt (evtWord c 3 0 d)
  | .evBgp c d => .evt (evtWord c 4 0 d)
  | .evObp0 c d => .evt (evtWord c 5 0 d)
  | .evObp1 c d => .evt (evtWord c 6 0 d)
  | .evPalbyte c o d => .evt (evtWord c 7 o d)
  | .maskNormal k => .mask (maskWord 0 k)
  | .maskFrozen k => .mask (maskWord 1 k)
  | .maskBlack k => .mask (maskWord 2 k)
  | .maskColor k => .mask (maskWord 3 k)
  | .maskWhite m k => .mask (maskWord m k)
  | .idle => .seq 0x00
  | .frameBegin => .seq 0x01
  | .maskDispatch => .seq 0x02
  | .bufLock => .seq 0x03
  | .fill => .seq 0x04
  | .frameLoad => .seq 0x05
  | .palReload => .seq 0x06
  | .lineStart => .seq 0x07
  | .lineBlank => .seq 0x08
  | .objSearch => .seq 0x09
  | .pixel => .seq 0x0A
  | .bgFetch => .seq 0x0B
  | .winFetch => .seq 0x0C
  | .objPick => .seq 0x0D
  | .prioMux => .seq 0x0E
  | .palLookup => .seq 0x0F
  | .pixWrite => .seq 0x10
  | .lineEnd => .seq 0x11
  | .bufUnlock => .seq 0x12
  | .present => .seq 0x13
  | .frameEnd => .seq 0x14
  | .borderRender => .seq 0x15
  | .setColorPalette => .seq 0x16
  | .setMonoPalette => .seq 0x17

/-! ### The rows of the opcode table (R140) -/

/-- One row of the opcode table: a word `w` of the row's format selects it when `w and mask = match` (R140). -/
inductive Row where
  | evt (pattern mask : BitVec 64)
  | mask (pattern mask : BitVec 18)
  | seq (pattern mask : BitVec 5)
  deriving DecidableEq, Repr

/-- The word selects the row (R140). -/
def Code.selects : Code → Row → Bool
  | .evt w, .evt p m => w &&& m == p
  | .mask w, .mask p m => w &&& m == p
  | .seq w, .seq p m => w &&& m == p
  | _, _ => false

/-- The opcode table in its own order, each row with its mnemonic. -/
def opcodeRows : List (String × Row) :=
  [("EV_LCDC", .evt 0x0000000000000000 0x00000000FFFFFF00),
   ("EV_SCX", .evt 0x0000000010000000 0x00000000FFFFFF00),
   ("EV_SCY", .evt 0x0000000020000000 0x00000000FFFFFF00),
   ("EV_WX", .evt 0x0000000030000000 0x00000000FFFFFF00),
   ("EV_BGP", .evt 0x0000000040000000 0x00000000FFFFFF00),
   ("EV_OBP0", .evt 0x0000000050000000 0x00000000FFFFFF00),
   ("EV_OBP1", .evt 0x0000000060000000 0x00000000FFFFFF00),
   ("EV_PALBYTE", .evt 0x0000000070000000 0x00000000FFFF8000),
   ("MASK_NORMAL", .mask 0x00000 0x38000),
   ("MASK_FROZEN", .mask 0x08000 0x38000),
   ("MASK_BLACK", .mask 0x10000 0x38000),
   ("MASK_COLOR", .mask 0x18000 0x38000),
   ("MASK_WHITE", .mask 0x20000 0x20000)]
  ++ [("IDLE", .seq 0x00 0x1F),
   ("FRAME_BEGIN", .seq 0x01 0x1F),
   ("MASK_DISPATCH", .seq 0x02 0x1F),
   ("BUF_LOCK", .seq 0x03 0x1F),
   ("FILL", .seq 0x04 0x1F),
   ("FRAME_LOAD", .seq 0x05 0x1F),
   ("PAL_RELOAD", .seq 0x06 0x1F),
   ("LINE_START", .seq 0x07 0x1F),
   ("LINE_BLANK", .seq 0x08 0x1F),
   ("OBJ_SEARCH", .seq 0x09 0x1F),
   ("PIXEL", .seq 0x0A 0x1F),
   ("BG_FETCH", .seq 0x0B 0x1F),
   ("WIN_FETCH", .seq 0x0C 0x1F),
   ("OBJ_PICK", .seq 0x0D 0x1F),
   ("PRIO_MUX", .seq 0x0E 0x1F),
   ("PAL_LOOKUP", .seq 0x0F 0x1F),
   ("PIX_WRITE", .seq 0x10 0x1F)]
  ++ [("LINE_END", .seq 0x11 0x1F),
   ("BUF_UNLOCK", .seq 0x12 0x1F),
   ("PRESENT", .seq 0x13 0x1F),
   ("FRAME_END", .seq 0x14 0x1F),
   ("BORDER_RENDER", .seq 0x15 0x1F),
   ("SET_COLOR_PALETTE", .seq 0x16 0x1F),
   ("SET_MONO_PALETTE", .seq 0x17 0x1F)]

/-- The mnemonic of a command as the opcode table spells it. -/
def Instr.mnemonic : Instr → String
  | .evLcdc _ _ => "EV_LCDC"
  | .evScx _ _ => "EV_SCX"
  | .evScy _ _ => "EV_SCY"
  | .evWx _ _ => "EV_WX"
  | .evBgp _ _ => "EV_BGP"
  | .evObp0 _ _ => "EV_OBP0"
  | .evObp1 _ _ => "EV_OBP1"
  | .evPalbyte _ _ _ => "EV_PALBYTE"
  | .maskNormal _ => "MASK_NORMAL"
  | .maskFrozen _ => "MASK_FROZEN"
  | .maskBlack _ => "MASK_BLACK"
  | .maskColor _ => "MASK_COLOR"
  | .maskWhite _ _ => "MASK_WHITE"
  | .idle => "IDLE"
  | .frameBegin => "FRAME_BEGIN"
  | .maskDispatch => "MASK_DISPATCH"
  | .bufLock => "BUF_LOCK"
  | .fill => "FILL"
  | .frameLoad => "FRAME_LOAD"
  | .palReload => "PAL_RELOAD"
  | .lineStart => "LINE_START"
  | .lineBlank => "LINE_BLANK"
  | .objSearch => "OBJ_SEARCH"
  | .pixel => "PIXEL"
  | .bgFetch => "BG_FETCH"
  | .winFetch => "WIN_FETCH"
  | .objPick => "OBJ_PICK"
  | .prioMux => "PRIO_MUX"
  | .palLookup => "PAL_LOOKUP"
  | .pixWrite => "PIX_WRITE"
  | .lineEnd => "LINE_END"
  | .bufUnlock => "BUF_UNLOCK"
  | .present => "PRESENT"
  | .frameEnd => "FRAME_END"
  | .borderRender => "BORDER_RENDER"
  | .setColorPalette => "SET_COLOR_PALETTE"
  | .setMonoPalette => "SET_MONO_PALETTE"

/-! ### Words laid out as bytes (log 13) -/

/-- The number whose bytes these are, the first byte least significant. DESIGN CHOICE, log 13. -/
def bytesToNat : List Byte → Nat
  | [] => 0
  | b :: bs => b.toNat + 256 * bytesToNat bs

/-- The first `n` bytes of a number, the least significant first. -/
def natToBytes : Nat → Nat → List Byte
  | 0, _ => []
  | n + 1, w => BitVec.ofNat 8 w :: natToBytes n (w / 256)

/-- The command word that some bytes hold: one byte a `SEQ` code, three a `MASK` word, eight an `EVT` record; bits above
the format's length must be 0. DESIGN CHOICE, log 13. -/
def codeOfBytes (bs : List Byte) : Except Reject Code :=
  let w := bytesToNat bs
  if bs.length = 1 then
    if w < 2 ^ 5 then .ok (.seq (BitVec.ofNat 5 w)) else .error .padding
  else if bs.length = 3 then
    if w < 2 ^ 18 then .ok (.mask (BitVec.ofNat 18 w)) else .error .padding
  else if bs.length = 8 then .ok (.evt (BitVec.ofNat 64 w))
  else .error .length

/-- The decoder on bytes, total on any list of them. -/
def decodeBytes (bs : List Byte) : Except Reject Instr :=
  match codeOfBytes bs with
  | .ok c => decode c
  | .error r => .error r

/-- How many bytes hold an instruction of the format whose table rows have `nbits` bits. -/
def formatBytes (nbits : Nat) : Nat := if nbits ≤ 8 then 1 else if nbits ≤ 24 then 3 else 8

/-- The bytes of the instruction that the opcode table writes as `w` in `nbits` bits. -/
def tableBytes (nbits w : Nat) : List Byte := natToBytes (formatBytes nbits) w

/-- What the decoder reads from an instruction numbered as the opcode table numbers it. -/
def decodeTableWord (nbits w : Nat) : Option Instr :=
  match decodeBytes (tableBytes nbits w) with
  | .ok i => some i
  | .error _ => none

end Sys2Proof
end

