-- ==== Sys2Proof/Config.lean ====
section
/-! DEFINITION. What an implementation fixes: the parameters of R6 as plain data, held in the state of an instance
and changed by no step (log 1), and the values the spec leaves open as constants without a body. -/

namespace Sys2Proof

/-- `HW_MODE` (R6, R360). -/
inductive HwMode where
  | mono | color
  deriving DecidableEq, Repr

/-- `PIXEL_FORMAT` (R6): `PIXW` is 16 or 32. -/
inductive PixelFormat where
  | pf16 | pf32
  deriving DecidableEq, Repr

/-- The configuration of one machine instance (R6). Every colour table is one of these: an entry of `lut` replaces the
default entry of R183 at its index (log 2). -/
structure Config where
  /-- `HW_MODE`. -/
  hwMode : HwMode
  /-- `PIXEL_FORMAT`. -/
  format : PixelFormat
  /-- `OBJ_Y_BIAS`, OPEN in the spec (D1). -/
  objYBias : Int
  /-- `COLOR_LUT` where it differs from the default of R183. -/
  lut : List (Nat × Pixel)
  /-- `MONO_RAMP`: four entries each for `BG`, `OBJ0`, `OBJ1` (R184). -/
  ramp : Vector Pixel 12
  /-- `BLACK`. -/
  black : Pixel
  /-- `WHITE`. -/
  white : Pixel
  deriving DecidableEq, Repr

/-- The four default greys of a monochrome ramp, lightest first (R184, D9). -/
def PixelFormat.greys : PixelFormat → List Pixel
  | .pf32 => [0xFFFFFFFF#32, 0xFFAAAAAA#32, 0xFF555555#32, 0xFF000000#32]
  | .pf16 => [0xFFFF#32, 0xAD55#32, 0x52AA#32, 0x0000#32]

/-- The default configuration of a hardware mode, a pixel format and an object bias (R6, R183, R184, D26). -/
def Config.default (m : HwMode) (f : PixelFormat) (bias : Int) : Config where
  hwMode := m
  format := f
  objYBias := bias
  lut := []
  ramp := Vector.ofFn fun i => f.greys.getD (i.val % 4) 0
  black := match f with
    | .pf32 => 0xFF000000#32
    | .pf16 => 0x0000#32
  white := match f with
    | .pf32 => 0xFFFFFFFF#32
    | .pf16 => 0xFFFF#32

/-- What a border map entry selects (R342: tile number, palette, flips). DESIGN CHOICE, log 19: the number of tiles and the
number of palettes are left unbounded. -/
structure BorderTile where
  tile : Nat
  pal : Nat
  xflip : Bool
  yflip : Bool
  deriving DecidableEq, Repr, Inhabited

/-- `BORDER_FORMAT`, OPEN (R342, D34): the map entry of cell `(row, col)` of the border's tile map. DESIGN CHOICE, log 19. -/
opaque Config.borderTile (map : List Host.Cell) (row col : Nat) : BorderTile

/-- `BORDER_FORMAT`, OPEN (R342, D34): the byte of bit plane `plane` in row `row` of a border tile. DESIGN CHOICE, log 19. -/
opaque Config.borderPlane (chars : List Host.Cell) (tile row plane : Nat) : Byte

/-- `BORDER_FORMAT`, OPEN (R342, D34): entry `i` of palette `p` of the dedicated palette region. DESIGN CHOICE, log 19. -/
opaque Config.borderColor (region : List Host.Cell) (p : Nat) (i : BitVec 4) : Pixel

/-- The free outcome `(bgIdx, bgPal, tilePrio)` of a `WIN_FETCH` performed where the window is not active, for which R250
states no result. DESIGN CHOICE, log 17. -/
opaque Config.winFetchFree (n : Nat) : BitVec 2 × BitVec 3 × Bool

/-- The free operand of a `FILL` performed under `Normal` or `Frozen`, for which R306 to R308 state none.
DESIGN CHOICE, log 18. -/
opaque Config.fillFree (n : Nat) : Pixel

end Sys2Proof
end

