-- ==== Sys2Proof/Machine/State.lean ====
section
/-! DEFINITION. The state of one engine as plain data: everything 10_state.md names, the fields of the model's own (logs
1, 8, 9, 11, 17), the faults and refusals a step can end in, and the state after reset (R380). -/

namespace Sys2Proof.Machine

/-- The six address spaces (R70). -/
inductive Space where
  | vram0 | vram1 | oam | palram | fb | border
  deriving DecidableEq, Repr

/-- Why the machine stops. No run from reset on inputs of the right shape reaches any of these (obligation
`InvariantStepAnswersNext`); the faults the spec gives the engine, `MalformedInput` and `BufferUnavailable`, are not here: their
entry is taken, see `takeFault` (R358). -/
inductive Fault where
  /-- An access beyond the end of a space (R70, R86): raised by every operation that reads a view or writes FB. Safe. -/
  | outOfSpace (space : Space) (addr : Nat)
  /-- An access to VRAM1 or PALRAM when MONO (R70): raised by EV_PALBYTE performed in MONO. Safe. -/
  | absentSpace (space : Space)
  /-- A read or write of a snapshot view that is not bound (R380): raised by every operation that reaches VRAM, OAM or
  PALRAM. Safe. -/
  | unboundView (space : Space)
  /-- An operation that needs the frame's input when there is none (log 7): raised by FRAME_BEGIN, MASK_DISPATCH, BUF_LOCK,
  FRAME_LOAD, LINE_START. Safe. -/
  | noFrameInput
  /-- LINE_START meets a record that FRAME_BEGIN would have refused (R151, R353; log 15). Safe. -/
  | malformedLog (log : LogId) (index : Nat)
  deriving DecidableEq, Repr

/-- Why a word is not performed at all. -/
inductive Refusal where
  /-- An instruction without a meaning in this model: raised by no arm. Safe. -/
  | notModelled (mnemonic : String)
  /-- The word handed to the engine is no command (R130): raised by `step` on an issued word only. Safe. -/
  | undecodable (why : Reject)
  deriving DecidableEq, Repr

/-- The eight register latches (R21). -/
structure Regs where
  lcdc : Byte
  scy : Byte
  scx : Byte
  wy : Byte
  wx : Byte
  bgp : Byte
  obp0 : Byte
  obp1 : Byte
  deriving DecidableEq, Repr

/-- The snapshot's views of the console's memories (R48, R70); an address not listed reads `0x00` (log 6). -/
structure Views where
  vram0 : List Host.Cell
  vram1 : List Host.Cell
  oam : List Host.Cell
  palram : List Host.Cell
  deriving DecidableEq, Repr

/-- The video status snapshot `SNAP` (R20, R314). -/
structure Snapshot where
  regs : Regs
  views : Views
  deriving DecidableEq, Repr

/-- One frame's input (R20, R300) and the answer its `lockBuffer` call gets: a stride, or a failure (R310; log 12). -/
structure FrameInput where
  snap : Snapshot
  rlog : List (BitVec 64)
  plog : List (BitVec 64)
  maskSel : BitVec 18
  lock : Option Nat
  deriving DecidableEq, Repr

/-- The border renderer's operands (R340) and the answer its `lockBuffer` call gets (R343; log 19): none where
the backend supports no border buffer or implements no border rendering (log 29). -/
structure BorderInput where
  map : List Host.Cell
  chars : List Host.Cell
  region : List Host.Cell
  lock : Option Nat
  deriving DecidableEq, Repr

/-- What the host does to the engine between operations (R320; logs 8, 24). -/
inductive HostRequest where
  | attach (b : BorderInput)
  | resetTarget (b : BorderInput)
  | detach
  | startFrame (f : FrameInput)
  deriving DecidableEq, Repr

/-- The screen-mask states (R38). -/
inductive Mask where
  | normal | frozen | black | colorMask (k : BitVec 15) | white
  deriving DecidableEq, Repr

/-- One record of the sprite candidate buffer (R44). -/
structure Candidate where
  left : Int
  right : Int
  row : BitVec 16
  pal : BitVec 3
  prio : Bool
  deriving DecidableEq, Repr

/-- The tile fetch cursor (R46). -/
structure Cursor where
  mapRow : BitVec 5
  mapCol : BitVec 5
  tileRow : BitVec 16
  tilePal : BitVec 3
  tilePrio : Bool
  fine : BitVec 3
  winActive : Bool
  deriving DecidableEq, Repr

/-- The result of `PRIO_MUX` (R280). -/
inductive Sel where
  | bg | obj
  deriving DecidableEq, Repr

/-- The transient results the parts of one `PIXEL` hand on: the predicates of R36 and the values of R221, R240, R280,
R282. None survives the pixel (log 10). -/
structure PixRegs where
  bgIdx : BitVec 2
  bgPal : BitVec 3
  bgOn : Bool
  bgZero : Bool
  tilePrio : Bool
  objOpaque : Bool
  objIdx : BitVec 2
  objPal : BitVec 3
  objPrio : Bool
  sel : Sel
  out : Pixel
  deriving DecidableEq, Repr

/-- No pixel in progress. -/
def PixRegs.clear : PixRegs := ⟨0, 0, false, false, false, false, 0, 0, false, .bg, 0⟩

/-- The operands of `SET_COLOR_PALETTE` (R181); `half` is true for the object half. -/
structure ColorArg where
  half : Bool
  p : BitVec 3
  e : BitVec 2
  raw : BitVec 15
  deriving DecidableEq, Repr

/-- No operand present. -/
def ColorArg.clear : ColorArg := ⟨false, 0, 0, 0⟩

/-- The operands of `SET_MONO_PALETTE` (R182). -/
structure MonoArg where
  reg : Byte
  target : MonoTarget
  deriving DecidableEq, Repr

/-- No operand present. -/
def MonoArg.clear : MonoArg := ⟨0, .bg⟩

/-- The calls and notifications the engine makes (R356), and those of the border path (R343). -/
inductive Signal where
  | beforeFrame | lockBuffer | unlockBuffer | render | afterFrame | lockBorder | unlockBorder
  deriving DecidableEq, Repr

/-- A fault that reaches the host, with the information R350 records. -/
inductive Report where
  /-- Code 2: which log, and the index of the first offending record (R353). -/
  | malformedInput (log : LogId) (index : Nat)
  /-- Code 3 (R354). -/
  | bufferUnavailable
  deriving DecidableEq, Repr

/-- The engine's state. INVENTORY.md lists every field with the rule that names it and its reset value. -/
structure State where
  /-- The parameters of R6: no step changes them (log 1). -/
  cfg : Config
  /-- The register latches (R21). -/
  regs : Regs
  /-- The sequencer position (R30; log 21). -/
  phase : Phase
  ly : Nat
  x : Nat
  clk : Nat
  rp : Nat
  pp : Nat
  /-- R37. -/
  inProgress : Bool
  /-- R39. -/
  attached : Bool
  /-- R38. -/
  mask : Mask
  /-- `BGPAL[p][e]` at index `4p + e` (R40; log 26). -/
  bgpal : Vector Pixel 32
  /-- `OBJPAL[p][e]` at index `4p + e` (R40). -/
  objpal : Vector Pixel 32
  /-- The sprite candidate buffer; `objCount` is its length (R44; log 22). -/
  cands : List Candidate
  /-- The tile fetch cursor (R46). -/
  cursor : Cursor
  /-- The transients of one pixel (R36; log 10). -/
  pix : PixRegs
  /-- The operands of `SET_COLOR_PALETTE` (R181; log 10). -/
  colorArg : ColorArg
  /-- The operands of `SET_MONO_PALETTE` (R182; log 10). -/
  monoArg : MonoArg
  /-- The snapshot views; `none` is unbound (R380; log 6). -/
  views : Option Views
  /-- The output buffer: pixel `(x, ly)` at `160 * ly + x`; one not listed has no value (R78; log 5). -/
  fb : List (Nat × Pixel)
  /-- The border buffer: pixel `(x, y)` at `256 * y + x`; one not listed has no value (R79; log 5). -/
  border : List (Nat × Pixel)
  /-- The stride `lockBuffer` returned, while FB is locked (R78, R310; log 12). -/
  locked : Option Nat
  /-- The input of the frame operation (R20; log 7). -/
  input : Option FrameInput
  /-- The operands of the border renderer (R340; log 19). -/
  borderIn : BorderInput
  /-- Host interactions not yet taken up (R320; log 8). -/
  requests : List HostRequest
  /-- The calls and notifications of the current or last operation, oldest first (R356; log 11). -/
  signals : List Signal
  /-- The fault the last operation returned to the host (R358; log 11). -/
  report : Option Report
  /-- A command to be performed on its own at the next step (log 9). -/
  issue : Option Code
  /-- How many free values have been drawn (logs 17, 18). -/
  free : Nat
  deriving DecidableEq, Repr

/-- The state of an instance of configuration `cfg` after reset: the values of R380, and for everything R380 leaves
unspecified the value that log 4 names. -/
def State.resetOf (cfg : Config) : State where
  cfg := cfg
  regs := ⟨0, 0, 0, 0, 0, 0, 0, 0⟩
  phase := .idle
  ly := 0
  x := 0
  clk := 0
  rp := 0
  pp := 0
  inProgress := false
  attached := false
  mask := .white
  bgpal := Vector.replicate 32 0
  objpal := Vector.replicate 32 0
  cands := []
  cursor := ⟨0, 0, 0, 0, false, 0, false⟩
  pix := .clear
  colorArg := .clear
  monoArg := .clear
  views := none
  fb := []
  border := []
  locked := none
  input := none
  borderIn := ⟨[], [], [], none⟩
  requests := []
  signals := []
  report := none
  issue := none
  free := 0

/-- The machine right after reset: the colour instance with 32-bit pixels, the recommended object bias and the default
tables (R6, D1, D8, D9; log 1). -/
def State.reset : State := State.resetOf (Config.default .color .pf32 16)

end Sys2Proof.Machine
end

