-- ==== Sys2Proof/Machine/Operands.lean ====
section
/-! DEFINITION. Operand assembly: the fields of every register and data byte, the addresses computed from them, the
colour tables and the unpack tables. Bit positions and address constants marked [from general knowledge] by the spec
(GK1 to GK12) stand here and nowhere else (log 20). -/

namespace Sys2Proof.Machine

/-! ### The display control register (R22) -/

/-- `LCDC.EN`: the display is on. -/
def lcdcEn (v : Byte) : Bool := v.getLsbD 7

/-- `LCDC.WMAP`: the window uses tile map 1. -/
def lcdcWmap (v : Byte) : Bool := v.getLsbD 6

/-- `LCDC.WEN`: the window is enabled. -/
def lcdcWen (v : Byte) : Bool := v.getLsbD 5

/-- `LCDC.TDATA`: tile indices are unsigned. -/
def lcdcTdata (v : Byte) : Bool := v.getLsbD 4

/-- `LCDC.BMAP`: the background uses tile map 1. -/
def lcdcBmap (v : Byte) : Bool := v.getLsbD 3

/-- `LCDC.OSIZE`: objects are 16 high. -/
def lcdcOsize (v : Byte) : Bool := v.getLsbD 2

/-- `LCDC.OEN`: objects are enabled. -/
def lcdcOen (v : Byte) : Bool := v.getLsbD 1

/-- `LCDC.BEN`: the background is enabled. -/
def lcdcBen (v : Byte) : Bool := v.getLsbD 0

/-! ### The object attribute byte (R116) -/

/-- `attr.BEHIND`. -/
def attrBehind (a : Byte) : Bool := a.getLsbD 7

/-- `attr.YFLIP`. -/
def attrYflip (a : Byte) : Bool := a.getLsbD 6

/-- `attr.XFLIP`. -/
def attrXflip (a : Byte) : Bool := a.getLsbD 5

/-- `attr.MPAL`. -/
def attrMpal (a : Byte) : Bool := a.getLsbD 4

/-- `attr.BANK`. -/
def attrBank (a : Byte) : Bool := a.getLsbD 3

/-- `attr.CPAL`. -/
def attrCpal (a : Byte) : BitVec 3 := a.extractLsb' 0 3

/-- The object's palette index: 3 bits when COLOR, 1 bit when MONO (R218). -/
def objPalette (m : HwMode) (a : Byte) : BitVec 3 :=
  match m with
  | .color => attrCpal a
  | .mono => if attrMpal a then 1 else 0

/-- The bank of an object's tile data (R215). -/
def objBank (m : HwMode) (a : Byte) : Space := if m = .color ∧ attrBank a then .vram1 else .vram0

/-! ### The map attribute byte (R117) -/

/-- `mattr.PRIO`. -/
def mattrPrio (a : Byte) : Bool := a.getLsbD 7

/-- `mattr.VFLIP`. -/
def mattrVflip (a : Byte) : Bool := a.getLsbD 6

/-- `mattr.HFLIP`. -/
def mattrHflip (a : Byte) : Bool := a.getLsbD 5

/-- `mattr.BANK`, as the space the tile's data comes from. -/
def mattrBank (a : Byte) : Space := if a.getLsbD 3 then .vram1 else .vram0

/-- `mattr.PAL`. -/
def mattrPal (a : Byte) : BitVec 3 := a.extractLsb' 0 3

/-! ### Colours (R6, R119, R125, R183, R184) -/

/-- A value as a `PIXW`-bit pixel (R6). -/
def toPixel (f : PixelFormat) (v : Pixel) : Pixel :=
  match f with
  | .pf32 => v
  | .pf16 => v &&& 0xFFFF#32

/-- `raw = (hi : lo)[14:0]` (R83, R125). -/
def rawColor (lo hi : Byte) : BitVec 15 := (hi ++ lo : BitVec 16).extractLsb' 0 15

/-- `x8(v) = (v << 3) | (v >> 2)` of a 5-bit channel (R183). -/
def x8 (v : BitVec 5) : Byte := v ++ v.extractLsb' 2 3

/-- The default contents of `COLOR_LUT` (R183, with the channels of R119). -/
def defaultColor (f : PixelFormat) (raw : BitVec 15) : Pixel :=
  let r : BitVec 5 := raw.extractLsb' 0 5
  let g : BitVec 5 := raw.extractLsb' 5 5
  let b : BitVec 5 := raw.extractLsb' 10 5
  match f with
  | .pf32 => 0xFF#8 ++ x8 r ++ x8 g ++ x8 b
  | .pf16 => 0#16 ++ r ++ (g ++ g.extractLsb' 4 1 : BitVec 6) ++ b

/-- The first value listed for an index. -/
def lookupCell {α : Type} (a : Nat) : List (Nat × α) → Option α
  | [] => none
  | (b, v) :: rest => if a = b then some v else lookupCell a rest

/-- `COLOR_LUT[raw]` (R42, R183; log 2). -/
def colorLut (c : Config) (raw : BitVec 15) : Pixel :=
  toPixel c.format ((lookupCell raw.toNat c.lut).getD (defaultColor c.format raw))

/-- The row of `MONO_RAMP` of a target (R184). -/
def rampRow : MonoTarget → Fin 3
  | .bg => 0
  | .obj0 => 1
  | .obj1 => 2

/-- `MONO_RAMP[target][j]` (R184). -/
def monoRamp (c : Config) (t : MonoTarget) (j : BitVec 2) : Pixel :=
  toPixel c.format (c.ramp[(rampRow t).val * 4 + j.toNat]'(by have := (rampRow t).isLt; have := j.isLt; omega))

/-- `BLACK` as a pixel of the configured width (R6). -/
def blackPixel (c : Config) : Pixel := toPixel c.format c.black

/-- `WHITE` as a pixel of the configured width (R6). -/
def whitePixel (c : Config) : Pixel := toPixel c.format c.white

/-- Entry `j` of a monochrome palette register, bits `[2j+1 : 2j]` (R25). -/
def monoEntry (reg : Byte) (j : BitVec 2) : BitVec 2 := reg.extractLsb' (2 * j.toNat) 2

/-- Where entry `e` of palette `p` stands in one half of the palette store (R40). -/
def palIndex (p : BitVec 3) (e : BitVec 2) : Fin 32 := ⟨p.toNat * 4 + e.toNat, by omega⟩

/-- Colour entry number `e6` as the operands of `SET_COLOR_PALETTE` (R125). -/
def colorArgOf (e6 : BitVec 6) (raw : BitVec 15) : ColorArg :=
  ⟨e6.getLsbD 5, e6.extractLsb' 2 3, e6.extractLsb' 0 2, raw⟩

/-! ### Tile rows (R81, R186 to R190) -/

/-- One colour index of a tile row: bit `n` of the high plane above bit `n` of the low plane (R81). -/
def laneBits (i : BitVec 16) (n : Nat) : BitVec 2 :=
  BitVec.ofBool (i.getLsbD (8 + n)) ++ BitVec.ofBool (i.getLsbD n)

/-- `PIX(u, k) = u[2k+1 : 2k]` (R186). -/
def rowPixel (u : BitVec 16) (k : BitVec 3) : BitVec 2 := u.extractLsb' (2 * k.toNat) 2

/-- `UNPACK[b1 : b0]`: pixel `k` is lane `7 - k` (R187). -/
def unpack (i : BitVec 16) : BitVec 16 :=
  laneBits i 0 ++ laneBits i 1 ++ laneBits i 2 ++ laneBits i 3
    ++ laneBits i 4 ++ laneBits i 5 ++ laneBits i 6 ++ laneBits i 7

/-- `UNPACK_FLIP[b1 : b0]`: pixel `k` is lane `k` (R188). -/
def unpackFlip (i : BitVec 16) : BitVec 16 :=
  laneBits i 7 ++ laneBits i 6 ++ laneBits i 5 ++ laneBits i 4
    ++ laneBits i 3 ++ laneBits i 2 ++ laneBits i 1 ++ laneBits i 0

/-- The unpacked row of a byte pair in the wanted orientation (R216, R244). -/
def unpackRow (flip : Bool) (b : Byte × Byte) : BitVec 16 :=
  if flip then unpackFlip (b.2 ++ b.1) else unpack (b.2 ++ b.1)

/-! ### Addresses (R80, R86, R126) -/

/-- The base of tile map 0 or 1 (R80). -/
def mapBase (second : Bool) : Nat := if second then 0x1C00 else 0x1800

/-- The offset of a map cell (R80). -/
def cellAddr (base row col : Nat) : Nat := base + 32 * row + col

/-- The base of a tile's data: unsigned from `0x0000`, or signed around `0x1000` (R126, R245). -/
def tileBase (unsigned : Bool) (idx : Byte) : Nat :=
  if unsigned then 16 * idx.toNat else (0x1000 + 16 * idx.toInt).toNat

/-- The offset of row `r` of a background or window tile, flipped within the tile when asked (R126, R244). -/
def tileRowAddr (unsigned : Bool) (idx : Byte) (vflip : Bool) (trow : Nat) : Nat :=
  tileBase unsigned idx + 2 * (if vflip then 7 - trow else trow)

/-! ### Objects (R127, R211 to R217) -/

/-- `OBJ_X_BIAS` (R6). -/
def objXBias : Int := 8

/-- The height of an object (R211). -/
def objHeight (lcdc : Byte) : Nat := if lcdcOsize lcdc then 16 else 8

/-- `top = zext_8(oy) - OBJ_Y_BIAS` (R127). -/
def objTop (c : Config) (oy : Byte) : Int := oy.toNat - c.objYBias

/-- `left = zext_8(ox) - OBJ_X_BIAS` (R127, R217). -/
def objLeft (ox : Byte) : Int := ox.toNat - objXBias

/-- The selection condition `top <= ly < top + h` (R211). -/
def objCovers (top : Int) (h ly : Nat) : Bool := decide (top ≤ ly ∧ (ly : Int) < top + h)

/-- The row within the object, flipped within its height when asked (R213). -/
def objRow (top : Int) (h ly : Nat) (yflip : Bool) : Nat :=
  let r := (ly - top).toNat
  if yflip then h - 1 - r else r

/-- The tile number used: the low bit is ignored when objects are 16 high (R214). -/
def objTile (h : Nat) (tile : Byte) : Byte := if h = 16 then tile &&& 0xFE else tile

/-- `addr = 16 * t + 2 * r` (R214). -/
def objAddr (h : Nat) (tile : Byte) (r : Nat) : Nat := 16 * (objTile h tile).toNat + 2 * r

/-! ### Background and window coordinates (R128, R241, R248, R249) -/

/-- `WIN_X_BIAS` (R6). -/
def winXBias : Int := 7

/-- `wx0 = zext_8(WX) - WIN_X_BIAS` (R128). -/
def winLeft (wx : Byte) : Int := wx.toNat - winXBias

/-- `WIN_ACTIVE(ly, x)` (R248, R250). -/
def winActive (r : Regs) (ly x : Nat) : Bool :=
  lcdcWen r.lcdc && decide (r.wy.toNat ≤ ly) && decide (winLeft r.wx ≤ x)

/-- Plane row and column of the background pixel at `(ly, x)` (R241, R242). -/
def bgPlane (r : Regs) (ly x : Nat) : Nat × Nat := ((r.scy.toNat + ly) % 256, (r.scx.toNat + x) % 256)

/-- Row and column of the window pixel at `(ly, x)` (R249). -/
def winPlane (r : Regs) (ly x : Nat) : Nat × Nat := (ly - r.wy.toNat, (x - winLeft r.wx).toNat)

/-! ### Buffers (R78, R79, R341) -/

/-- `LINES` (R5). -/
def lines : Nat := 144

/-- `WIDTH` (R5). -/
def width : Nat := 160

/-- `LINE_CLOCKS` (R5). -/
def lineClocks : Nat := 456

/-- `BORDER_W` (R5). -/
def borderWidth : Nat := 256

/-- `BORDER_H` (R5). -/
def borderHeight : Nat := 224

/-- Where pixel `(x, ly)` stands in the array of FB. -/
def fbIndex (ly x : Nat) : Nat := width * ly + x

/-- `PIXW / 8`, the bytes of a pixel (R6). -/
def pixelBytes : PixelFormat → Nat
  | .pf32 => 4
  | .pf16 => 2

/-- The byte offset of pixel `(x, ly)` from the pointer of the locked buffer (R78). -/
def fbOffset (f : PixelFormat) (stride ly x : Nat) : Nat := ly * stride + x * pixelBytes f

/-- The size of a space: bytes, or pixels for the two buffers (R70). -/
def Space.size : Space → Nat
  | .vram0 => 8192
  | .vram1 => 8192
  | .oam => 160
  | .palram => 128
  | .fb => lines * width
  | .border => borderHeight * borderWidth

/-- The space exists in this hardware mode (R70). -/
def Space.present (m : HwMode) : Space → Bool
  | .vram1 => m = .color
  | .palram => m = .color
  | _ => true

end Sys2Proof.Machine
end

