-- ==== Sys2Proof/Machine/Flags.lean ====
section
/-! DEFINITION. The predicates of a pixel and what they decide (R36, R280, R281). The engine has no condition codes. -/

namespace Sys2Proof.Machine

/-- `bgZero`: the background or window colour index is 0 (R36, R240). -/
def bgZeroOf (idx : BitVec 2) : Bool := idx = 0

/-- `objPrio` as sprite search stores it: over the background unless `attr.BEHIND` (R219). -/
def objPrioOf (attr : Byte) : Bool := !attrBehind attr

/-- `tilePrio` is always 0 when MONO (R36, R281; log 25). -/
def tilePrioOf (m : HwMode) (tilePrio : Bool) : Bool := m = .color && tilePrio

/-- `bgPal` is always 0 when MONO (R117, R282). -/
def bgPalOf (m : HwMode) (pal : BitVec 3) : BitVec 3 := if m = .color then pal else 0

/-- The priority table of R280 over its four predicates. -/
def priority (objOpaque objPrio bgZero tilePrio : Bool) : Sel :=
  if !objOpaque then .bg
  else if bgZero then .obj
  else if !tilePrio && objPrio then .obj
  else .bg

/-- `PRIO_MUX` in both hardware modes: MONO has no tile priority bit (R280, R281). -/
def prioSelect (m : HwMode) (objOpaque objPrio bgZero tilePrio : Bool) : Sel :=
  priority objOpaque objPrio bgZero (tilePrioOf m tilePrio)

end Sys2Proof.Machine
end

