-- ==== Sys2Proof/Machine/Ops.lean ====
section
/-! DEFINITION. The named operations over the state that the meanings share: sparse memories, the snapshot views, the
latches, the palette store, the two buffers, the signals, taking a fault (R358), and fetching the next command. -/

namespace Sys2Proof.Machine

/-- What a step or a meaning answers. -/
abbrev Result := Host.Outcome State Fault Refusal

/-- The answer of an operation that can only go on or fault. -/
def ofExcept : Except Fault State → Result
  | .ok s => .next s
  | .error f => .fault f

/-- Perform `f` on the next state, if there is one. -/
def andThen (o : Result) (f : State → Result) : Result :=
  match o with
  | .next s => f s
  | .fault r => .fault r
  | .refused r => .refused r

/-! ### Sparse lists in rising order of address -/

/-- Put a value at an address, keeping the addresses rising. -/
def insertCell {α : Type} (a : Nat) (v : α) : List (Nat × α) → List (Nat × α)
  | [] => [(a, v)]
  | (b, w) :: rest =>
    if a < b then (a, v) :: (b, w) :: rest
    else if a = b then (a, v) :: rest
    else (b, w) :: insertCell a v rest

/-- Take an address out. -/
def eraseCell {α : Type} (a : Nat) : List (Nat × α) → List (Nat × α)
  | [] => []
  | (b, w) :: rest => if a = b then eraseCell a rest else (b, w) :: eraseCell a rest

/-- The addresses rise strictly and lie below `size`. -/
def risingBelow {α : Type} (size : Nat) : Nat → List (Nat × α) → Bool
  | _, [] => true
  | low, (a, _) :: rest => decide (low ≤ a) && decide (a < size) && risingBelow size (a + 1) rest

/-- What an address that a byte memory does not list reads as (log 6). -/
def unlistedByte : Byte := 0

/-- The byte at an offset of a view. -/
def memGet (m : List Host.Cell) (a : Nat) : Byte := (lookupCell a m).getD unlistedByte

/-- Store a byte in a view, keeping its canonical form. -/
def memSet (a : Nat) (v : Byte) (m : List Host.Cell) : List Host.Cell :=
  if v = unlistedByte then eraseCell a m else insertCell a v m

/-- The canonical form of a byte memory of `size` bytes: addresses strictly rising, inside, and nothing listed that an
unlisted address reads as. -/
def Memory.wf (size : Nat) (m : List Host.Cell) : Bool :=
  risingBelow size 0 m && m.all fun c => c.2 ≠ unlistedByte

/-- The canonical form of a pixel buffer of `size` pixels; an unlisted pixel has no value (log 5). -/
def bufferWf (size : Nat) (b : List (Nat × Pixel)) : Bool := risingBelow size 0 b

/-- Every pixel of a buffer of `size` pixels at once. -/
@[irreducible] def paint (size : Nat) (f : Nat → Pixel) : List (Nat × Pixel) := (List.range size).map fun a => (a, f a)

/-! ### The snapshot views (R70 to R75) -/

/-- The view of a space, of the four the snapshot has. -/
def Views.get (v : Views) : Space → List Host.Cell
  | .vram0 => v.vram0
  | .vram1 => v.vram1
  | .oam => v.oam
  | .palram => v.palram
  | _ => []

/-- `MemRead(space, addr, 1)` (R72): the space must exist, its view be bound, and the address lie inside. -/
def State.readByte (s : State) (sp : Space) (a : Nat) : Except Fault Byte :=
  if sp.present s.cfg.hwMode then
    match s.views with
    | none => .error (.unboundView sp)
    | some v => if a < sp.size then .ok (memGet (v.get sp) a) else .error (.outOfSpace sp a)
  else .error (.absentSpace sp)

/-- `MemRead(space, addr, 2)` (R72): `(b0, b1)` with `b0` at `addr`. -/
def State.readPair (s : State) (sp : Space) (a : Nat) : Except Fault (Byte × Byte) := do
  let b0 ← s.readByte sp a
  let b1 ← s.readByte sp (a + 1)
  .ok (b0, b1)

/-- `MemWrite(PALRAM, off, 1, v)`, the only write to a view (R74). -/
def State.writePalram (s : State) (off : BitVec 7) (v : Byte) : Except Fault State :=
  if Space.palram.present s.cfg.hwMode then
    match s.views with
    | none => .error (.unboundView .palram)
    | some w => .ok { s with views := some { w with palram := memSet off.toNat v w.palram } }
  else .error (.absentSpace .palram)

/-- The raw colour of entry number `e6`, assembled from its aligned byte pair (R125). -/
def State.readRaw (s : State) (e6 : BitVec 6) : Except Fault (BitVec 15) := do
  let b ← s.readPair .palram (2 * e6.toNat)
  .ok (rawColor b.1 b.2)

/-! ### Latches, position, signals -/

/-- Change the latches. -/
def State.setRegs (s : State) (f : Regs → Regs) : State := { s with regs := f s.regs }

/-- `phase <- P` (R8). -/
def State.setPhase (s : State) (p : Phase) : State := { s with phase := p }

/-- The engine makes a call or sends a notification (R356). -/
def State.emit (s : State) (g : Signal) : State := { s with signals := s.signals ++ [g] }

/-- Draw one free value: the number under which it is asked for, and the state in which the next one is fresh. -/
def State.drawFree (s : State) : Nat × State := (s.free, { s with free := s.free + 1 })

/-- The input of the frame operation (log 7). -/
def State.frameInput (s : State) : Except Fault FrameInput :=
  match s.input with
  | some f => .ok f
  | none => .error .noFrameInput

/-! ### The palette store (R40, R180) -/

/-- `BGPAL[p][e]`. -/
def State.bgColor (s : State) (p : BitVec 3) (e : BitVec 2) : Pixel := s.bgpal[(palIndex p e).val]

/-- `OBJPAL[p][e]`. -/
def State.objColor (s : State) (p : BitVec 3) (e : BitVec 2) : Pixel := s.objpal[(palIndex p e).val]

/-- Write one entry of the store: the object half when `half`. -/
def State.setStore (s : State) (half : Bool) (p : BitVec 3) (e : BitVec 2) (c : Pixel) : State :=
  if half then { s with objpal := s.objpal.set (palIndex p e).val c }
  else { s with bgpal := s.bgpal.set (palIndex p e).val c }

/-- `SET_COLOR_PALETTE` on the operands in `colorArg` (R181). -/
def State.storeColor (s : State) : State :=
  s.setStore s.colorArg.half s.colorArg.p s.colorArg.e (colorLut s.cfg s.colorArg.raw)

/-- Where a monochrome target's four colours stand: the half and the palette of the store (R41, R182). -/
def monoDest : MonoTarget → Bool × BitVec 3
  | .bg => (false, 0)
  | .obj0 => (true, 0)
  | .obj1 => (true, 1)

/-- Entry `j` of a target's palette takes the ramp colour that entry `j` of the register selects (R182). -/
def State.storeMonoEntry (s : State) (j : BitVec 2) : State :=
  let a := s.monoArg
  s.setStore (monoDest a.target).1 (monoDest a.target).2 j (monoRamp s.cfg a.target (monoEntry a.reg j))

/-- `SET_MONO_PALETTE` on the operands in `monoArg`: all four entries, in order (R182). -/
def State.storeMono (s : State) : State :=
  (((s.storeMonoEntry 0).storeMonoEntry 1).storeMonoEntry 2).storeMonoEntry 3

/-- Perform `SET_COLOR_PALETTE` as a part of another operation: hand it its operands, and take them away again (log 10). -/
def State.callColor (s : State) (a : ColorArg) : State :=
  { State.storeColor { s with colorArg := a } with colorArg := .clear }

/-- Perform `SET_MONO_PALETTE` as a part of another operation (log 10). -/
def State.callMono (s : State) (reg : Byte) (t : MonoTarget) : State :=
  { State.storeMono { s with monoArg := ⟨reg, t⟩ } with monoArg := .clear }

/-! ### The output buffer (R78) -/

/-- `FB[ly][x]`, if it has been written. -/
def State.fbPixel (s : State) (ly x : Nat) : Option Pixel := lookupCell (fbIndex ly x) s.fb

/-- `FB[ly][x] <- p` (R78; log 27); a pixel outside 144 by 160 does not exist (log 28). -/
def State.writePixel (s : State) (ly x : Nat) (p : Pixel) : Except Fault State :=
  if ly < lines ∧ x < width then .ok { s with fb := insertCell (fbIndex ly x) p s.fb }
  else .error (.outOfSpace .fb (fbIndex ly x))

/-- The same pixel into columns `x .. x + n - 1` of a line. -/
def writeRun (ly : Nat) (p : Pixel) : Nat → Nat → State → Except Fault State
  | 0, _, s => .ok s
  | n + 1, x, s => do
    let t ← s.writePixel ly x p
    writeRun ly p n (x + 1) t

/-- `FB[ly][x] <- p` for every pixel (R309). -/
def State.fillBuffer (s : State) (p : Pixel) : State := { s with fb := paint Space.fb.size fun _ => p }

/-! ### Taking a fault and returning (R358, R359) -/

/-- The failure path's release of the buffer: it is unlocked if it was locked (R358). -/
def State.releaseBuffer (s : State) : State :=
  match s.locked with
  | some _ => { s.emit .unlockBuffer with locked := none }
  | none => s

/-- Taking a fault: the buffer is released, `inProgress` cleared, the fault returned to the host, and the engine idle;
nothing is saved and nothing else changes (R358). The return is the host's next request: there is no return operation (R359). -/
def State.takeFault (s : State) (r : Report) : State :=
  { s.releaseBuffer with inProgress := false, report := some r, phase := .idle }

/-! ### Fetching -/

/-- The command the next step performs: the one handed over for it (log 9), else the one the phase names (R30). -/
def State.fetch (s : State) : Code := s.issue.getD (.seq s.phase.code)

/-- The state the fetched command is performed in: a command handed over is used up. -/
def State.fetched (s : State) : State := { s with issue := none }

end Sys2Proof.Machine
end

