-- ==== Sys2Proof/Machine/Border.lean ====
section
/-! DEFINITION. The border family: BORDER_RENDER at the level the spec gives it (R340 to R344). -/

namespace Sys2Proof.Machine

/-- The 4-bit colour index of pixel `k` of a border tile row, assembled from four bit planes by the technique of R81,
bit 7 leftmost (R342). -/
def borderIndex (chars : List Host.Cell) (tile row k : Nat) : BitVec 4 :=
  let bit := fun plane => BitVec.ofBool ((Config.borderPlane chars tile row plane).getLsbD (7 - k))
  bit 3 ++ bit 2 ++ bit 1 ++ bit 0

/-- The display pixel at column `x`, row `y` of the border (R341, R342); its format is the open `BORDER_FORMAT` (log 19). -/
def borderPixel (c : Config) (b : BorderInput) (y x : Nat) : Pixel :=
  let t := Config.borderTile b.map (y / 8) (x / 8)
  let row := if t.yflip then 7 - y % 8 else y % 8
  let k := if t.xflip then 7 - x % 8 else x % 8
  toPixel c.format (Config.borderColor b.region t.pal (borderIndex b.chars t.tile row k))

/-- The border buffer painted whole (R341). -/
def State.paintBorder (s : State) : State :=
  { s with border := paint Space.border.size fun a => borderPixel s.cfg s.borderIn (a / borderWidth) (a % borderWidth) }

/-- `BORDER_RENDER` (R340, R343): the whole buffer is painted between its own lock and unlock, or, where the lock reports
"not supported", nothing is done and no fault is seen (R351). DESIGN CHOICE, log 29: R343 and R350 name a second error,
"border rendering unimplemented by a given backend", and no call at which it arises; here it too is a lock that fails, so
that a lock that succeeds is always followed by the painting. -/
def execBorderRender (s : State) : Result :=
  match s.borderIn.lock with
  | some _ => .next ((((s.emit .lockBorder).paintBorder).emit .unlockBorder).setPhase .idle)
  | none => .next ((s.emit .lockBorder).setPhase .idle)

end Sys2Proof.Machine
end

