-- ==== Sys2Proof/Machine/Palette.lean ====
section
/-! DEFINITION. The palette family: SET_COLOR_PALETTE, SET_MONO_PALETTE, PAL_RELOAD (R180 to R185). -/

namespace Sys2Proof.Machine

/-- `SET_COLOR_PALETTE` (R181), on the operands in `colorArg`. -/
def execSetColorPalette (s : State) : Result := .next s.storeColor

/-- `SET_MONO_PALETTE` (R182), on the operands in `monoArg`. -/
def execSetMonoPalette (s : State) : Result := .next s.storeMono

/-- Rebuild the store entries of the listed colour entry numbers from PALRAM (R185). -/
def reloadEntries : List (BitVec 6) → State → Except Fault State
  | [], s => .ok s
  | e :: rest, s => do
    let raw ← s.readRaw e
    reloadEntries rest (s.callColor (colorArgOf e raw))

/-- All 64 colour entry numbers in order (R185). -/
def colorEntries : List (BitVec 6) := (List.range 64).map (BitVec.ofNat 6)

/-- The store rebuilt from the three monochrome palette latches (R185). -/
def State.reloadMono (s : State) : State :=
  ((s.callMono s.regs.bgp .bg).callMono s.regs.obp0 .obj0).callMono s.regs.obp1 .obj1

/-- `PAL_RELOAD` (R185). -/
def execPalReload (s : State) : Result :=
  ofExcept <| do
    let t ← match s.cfg.hwMode with
      | .color => reloadEntries colorEntries s
      | .mono => .ok s.reloadMono
    .ok (t.setPhase .lineStart)

end Sys2Proof.Machine
end

