-- ==== Sys2Proof/Machine/Events.lean ====
section
/-! DEFINITION. The timed-event family (R152 to R159) and its replay, LINE_START (R151, R160 to R163). -/

namespace Sys2Proof.Machine

/-- `EV_LCDC` (R152). -/
def execEvLcdc (_clock : BitVec 32) (data : Byte) (s : State) : Result :=
  .next (s.setRegs fun r => { r with lcdc := data })

/-- `EV_SCX` (R153). -/
def execEvScx (_clock : BitVec 32) (data : Byte) (s : State) : Result :=
  .next (s.setRegs fun r => { r with scx := data })

/-- `EV_SCY` (R154). -/
def execEvScy (_clock : BitVec 32) (data : Byte) (s : State) : Result :=
  .next (s.setRegs fun r => { r with scy := data })

/-- `EV_WX` (R155). -/
def execEvWx (_clock : BitVec 32) (data : Byte) (s : State) : Result :=
  .next (s.setRegs fun r => { r with wx := data })

/-- After a monochrome palette latch was written: the decoded palette follows it when MONO; when COLOR nothing reads the
latch (R25, R156 to R158, D12). -/
def State.monoLatched (s : State) (data : Byte) (t : MonoTarget) : State :=
  match s.cfg.hwMode with
  | .mono => s.callMono data t
  | .color => s

/-- `EV_BGP` (R156). -/
def execEvBgp (_clock : BitVec 32) (data : Byte) (s : State) : Result :=
  .next ((s.setRegs fun r => { r with bgp := data }).monoLatched data .bg)

/-- `EV_OBP0` (R157). -/
def execEvObp0 (_clock : BitVec 32) (data : Byte) (s : State) : Result :=
  .next ((s.setRegs fun r => { r with obp0 := data }).monoLatched data .obj0)

/-- `EV_OBP1` (R158). -/
def execEvObp1 (_clock : BitVec 32) (data : Byte) (s : State) : Result :=
  .next ((s.setRegs fun r => { r with obp1 := data }).monoLatched data .obj1)

/-- The colour entry number of a palette memory offset: `offset >> 1` (R125, R159). -/
def entryOfOffset (offset : BitVec 7) : BitVec 6 := offset.extractLsb' 1 6

/-- `EV_PALBYTE` (R159): the byte is stored, and the colour it belongs to recomputed from both its bytes. -/
def execEvPalbyte (_clock : BitVec 32) (offset : BitVec 7) (data : Byte) (s : State) : Result :=
  ofExcept <| do
    let t ← s.writePalram offset data
    let raw ← t.readRaw (entryOfOffset offset)
    .ok (t.callColor (colorArgOf (entryOfOffset offset) raw))

/-! ### The replay (R151) -/

/-- `apply_register_event` (R151): targets 0 to 6; a palette-byte event has no place in RLOG (R112). -/
def applyRegisterEvent (i : Instr) (s : State) : Result :=
  match i with
  | .evLcdc c d => execEvLcdc c d s
  | .evScx c d => execEvScx c d s
  | .evScy c d => execEvScy c d s
  | .evWx c d => execEvWx c d s
  | .evBgp c d => execEvBgp c d s
  | .evObp0 c d => execEvObp0 c d s
  | .evObp1 c d => execEvObp1 c d s
  | _ => .fault (.malformedLog .rlog s.rp)

/-- `apply_palette_event` (R151): target 7 only (R112). -/
def applyPaletteEvent (i : Instr) (s : State) : Result :=
  match i with
  | .evPalbyte c o d => execEvPalbyte c o d s
  | _ => .fault (.malformedLog .plog s.pp)

/-- Apply the register events of `log`, the part of RLOG from `rp` on, while their clock is `<=` the line's (R151, R162). -/
def replayRegisters : List (BitVec 64) → State → Result
  | [], s => .next s
  | w :: rest, s =>
    if (recClock w).toNat ≤ s.clk then
      match decodeEvt w with
      | .ok i => andThen (applyRegisterEvent i s) fun t => replayRegisters rest { t with rp := t.rp + 1 }
      | .error _ => .fault (.malformedLog .rlog s.rp)
    else .next s

/-- Apply the palette-byte events of `log`, the part of PLOG from `pp` on, while their clock is `<` the line's (R151, R162). -/
def replayPalette : List (BitVec 64) → State → Result
  | [], s => .next s
  | w :: rest, s =>
    if (recClock w).toNat < s.clk then
      match decodeEvt w with
      | .ok i => andThen (applyPaletteEvent i s) fun t => replayPalette rest { t with pp := t.pp + 1 }
      | .error _ => .fault (.malformedLog .plog s.pp)
    else .next s

/-- `LINE_START` (R151): register events first, then palette-byte events (D20); then the line is searched for objects, or
blank when the display is off (R315, R316). -/
def execLineStart (s : State) : Result :=
  match s.input with
  | none => .fault .noFrameInput
  | some inp =>
    andThen (replayRegisters (inp.rlog.drop s.rp) s) fun t =>
      andThen (replayPalette (inp.plog.drop t.pp) t) fun u =>
        .next (u.setPhase (if lcdcEn u.regs.lcdc then .objSearch else .lineBlank))

end Sys2Proof.Machine
end

