-- ==== Sys2Proof/Machine/Frame.lean ====
section
/-! DEFINITION. The frame family: IDLE, FRAME_BEGIN, BUF_LOCK, FRAME_LOAD, LINE_BLANK, LINE_END, BUF_UNLOCK, PRESENT,
FRAME_END (R300 to R320). -/

namespace Sys2Proof.Machine

/-! ### IDLE and the host's requests (R300, R319, R320; log 8) -/

/-- Start an operation at phase `p`: the trace of the operation before is dropped (log 11). -/
def State.beginOperation (s : State) (p : Phase) : State := { s with signals := [], report := none, phase := p }

/-- Take up one host request (R320). -/
def State.takeRequest (s : State) : HostRequest → State
  | .attach b => { s.beginOperation .borderRender with attached := true, borderIn := b }
  | .resetTarget b => { s.beginOperation .borderRender with borderIn := b }
  | .detach => { s with attached := false, phase := .idle }
  | .startFrame f => { s.beginOperation .frameBegin with input := some f }

/-- `IDLE` (R300): the next host request is taken up; without one the engine stays idle. -/
def execIdle (s : State) : Result :=
  match s.requests with
  | [] => .next (s.setPhase .idle)
  | q :: rest => .next (State.takeRequest { s with requests := rest } q)

/-- The host hands a request over (R320). -/
def State.submit (s : State) (q : HostRequest) : State := { s with requests := s.requests ++ [q] }

/-! ### FRAME_BEGIN (R301, R353) -/

/-- A record that may stand in RLOG: targets 0 to 6 (R112). -/
def registerRecord (w : BitVec 64) : Bool :=
  match decodeEvt w with
  | .ok (.evPalbyte _ _ _) => false
  | .ok _ => true
  | .error _ => false

/-- A record that may stand in PLOG: target 7, and only when COLOR (R112, R159). -/
def paletteRecord (m : HwMode) (w : BitVec 64) : Bool :=
  match decodeEvt w with
  | .ok (.evPalbyte _ _ _) => m = .color
  | _ => false

/-- The index of the first record that is not `good` or whose clock is below the clock of the record before it, counted
from `n`; `low` is the clock so far (R130, R131, R350; log 14). -/
def firstOffence (good : BitVec 64 → Bool) : Nat → Nat → List (BitVec 64) → Option Nat
  | _, _, [] => none
  | n, low, w :: rest =>
    if good w && decide (low ≤ (recClock w).toNat) then firstOffence good (n + 1) (recClock w).toNat rest
    else some n

/-- What is wrong with the logs, RLOG looked at first (R350, R353; log 14). -/
def logOffence (m : HwMode) (inp : FrameInput) : Option Report :=
  match firstOffence registerRecord 0 0 inp.rlog with
  | some n => some (.malformedInput .rlog n)
  | none =>
    match firstOffence (paletteRecord m) 0 0 inp.plog with
    | some n => some (.malformedInput .plog n)
    | none => none

/-- `FRAME_BEGIN` (R301, R352, R353). -/
def execFrameBegin (s : State) : Result :=
  if s.attached then
    match s.input with
    | none => .fault .noFrameInput
    | some inp =>
      match logOffence s.cfg.hwMode inp with
      | some r => .next (s.takeFault r)
      | none => .next (State.setPhase { s.emit .beforeFrame with inProgress := true } .maskDispatch)
  else .next (State.setPhase { s with inProgress := false } .idle)

/-! ### Buffer and presentation (R310 to R312) -/

/-- `BUF_LOCK` (R310, R354). -/
def execBufLock (s : State) : Result :=
  match s.input with
  | none => .fault .noFrameInput
  | some inp =>
    match inp.lock with
    | some stride =>
      .next (State.setPhase { s.emit .lockBuffer with locked := some stride }
        (if s.mask = .normal then .frameLoad else .fill))
    | none => .next ((s.emit .lockBuffer).takeFault .bufferUnavailable)

/-- `BUF_UNLOCK` (R310). -/
def execBufUnlock (s : State) : Result :=
  .next (State.setPhase { s.emit .unlockBuffer with locked := none } .present)

/-- `PRESENT` (R311). -/
def execPresent (s : State) : Result := .next ((s.emit .render).setPhase .frameEnd)

/-- `FRAME_END` (R312): the snapshot and both logs are discarded. -/
def execFrameEnd (s : State) : Result :=
  .next (State.setPhase { s.emit .afterFrame with inProgress := false, input := none, views := none } .idle)

/-! ### Frame load and line loop (R314 to R317) -/

/-- `FRAME_LOAD` (R314). -/
def execFrameLoad (s : State) : Result :=
  match s.input with
  | none => .fault .noFrameInput
  | some inp =>
    .next (State.setPhase { s with
      regs := inp.snap.regs, views := some inp.snap.views, ly := 0, x := 0, clk := 0, rp := 0, pp := 0 } .palReload)

/-- `LINE_BLANK` (R316). -/
def execLineBlank (s : State) : Result :=
  ofExcept <| do
    let t ← writeRun s.ly (whitePixel s.cfg) width 0 s
    .ok (t.setPhase .lineEnd)

/-- `LINE_END` (R317). -/
def execLineEnd (s : State) : Result :=
  .next (State.setPhase { s with x := 0, ly := s.ly + 1, clk := s.clk + lineClocks }
    (if s.ly + 1 = lines then .bufUnlock else .lineStart))

end Sys2Proof.Machine
end

