-- ==== Sys2Proof/Machine/Masks.lean ====
section
/-! DEFINITION. The screen-mask family: the five commands (R304 to R308), MASK_DISPATCH (R303) and FILL (R309). -/

namespace Sys2Proof.Machine

/-- Enter a screen-mask state: Frozen goes straight to PRESENT, every other state locks the buffer (R303, R305). -/
def State.enterMask (s : State) (m : Mask) : State :=
  { s with mask := m, phase := if m = .frozen then .present else .bufLock }

/-- `MASK_NORMAL` (R304). -/
def execMaskNormal (_k : BitVec 15) (s : State) : Result := .next (s.enterMask .normal)

/-- `MASK_FROZEN` (R305). -/
def execMaskFrozen (_k : BitVec 15) (s : State) : Result := .next (s.enterMask .frozen)

/-- `MASK_BLACK` (R306). -/
def execMaskBlack (_k : BitVec 15) (s : State) : Result := .next (s.enterMask .black)

/-- `MASK_COLOR` (R307). -/
def execMaskColor (k : BitVec 15) (s : State) : Result := .next (s.enterMask (.colorMask k))

/-- `MASK_WHITE` (R308). -/
def execMaskWhite (_mode : BitVec 3) (_k : BitVec 15) (s : State) : Result := .next (s.enterMask .white)

/-- Perform the screen-mask command that the selector decodes to (R303). -/
def performMask (i : Instr) (s : State) : Result :=
  match i with
  | .maskNormal k => execMaskNormal k s
  | .maskFrozen k => execMaskFrozen k s
  | .maskBlack k => execMaskBlack k s
  | .maskColor k => execMaskColor k s
  | .maskWhite m k => execMaskWhite m k s
  | _ => .next (s.enterMask .white)

/-- `MASK_DISPATCH` (R303): every selector value has a meaning (R133). -/
def execMaskDispatch (s : State) : Result :=
  match s.input with
  | none => .fault .noFrameInput
  | some inp => performMask (decodeMask inp.maskSel) s

/-- The operand of `FILL` in a screen-mask state that fills (R306 to R308). -/
def fillPixel (c : Config) : Mask → Option Pixel
  | .black => some (blackPixel c)
  | .colorMask k => some (colorLut c k)
  | .white => some (whitePixel c)
  | .normal => none
  | .frozen => none

/-- `FILL` (R309); under Normal and Frozen, where it is never performed, its operand is free (log 18). -/
def execFill (s : State) : Result :=
  match fillPixel s.cfg s.mask with
  | some p => .next ((s.fillBuffer p).setPhase .bufUnlock)
  | none => .next ((s.drawFree.2.fillBuffer (toPixel s.cfg.format (Config.fillFree s.drawFree.1))).setPhase .bufUnlock)

end Sys2Proof.Machine
end

