-- ==== Sys2Proof/Machine/Fetch.lean ====
section
/-! DEFINITION. The tile fetch family: BG_FETCH, WIN_FETCH (R240 to R252) and the rolling cursor that realises them (R46,
R253 to R255). -/

namespace Sys2Proof.Machine

/-- The map attribute byte of a cell; when MONO none is read and every field reads as 0 (R117, R244). -/
def State.mapAttr (s : State) (cell : Nat) : Except Fault Byte :=
  match s.cfg.hwMode with
  | .color => s.readByte .vram1 cell
  | .mono => .ok 0

/-- The body of `TILE_PIXEL` up to the unpacked row (R244): the row, and the attribute byte it came with. -/
def State.tileRow (s : State) (base row col trow : Nat) : Except Fault (BitVec 16 × Byte) := do
  let idx ← s.readByte .vram0 (cellAddr base row col)
  let attr ← s.mapAttr (cellAddr base row col)
  let b ← s.readPair (mattrBank attr) (tileRowAddr (lcdcTdata s.regs.lcdc) idx (mattrVflip attr) trow)
  .ok (unpackRow (mattrHflip attr) b, attr)

/-- What the fetch stage supplies for one pixel (R240). -/
structure BgPixel where
  idx : BitVec 2
  pal : BitVec 3
  prio : Bool
  on : Bool
  deriving DecidableEq, Repr

/-- `TILE_PIXEL` at plane row `p.1`, plane column `p.2` of a tile map (R244, as R241 and R250 call it). -/
def State.tilePixel (s : State) (base : Nat) (p : Nat × Nat) : Except Fault BgPixel := do
  let t ← s.tileRow base (p.1 / 8) (p.2 / 8) (p.1 % 8)
  .ok ⟨rowPixel t.1 (BitVec.ofNat 3 (p.2 % 8)), mattrPal t.2, mattrPrio t.2, true⟩

/-- `BG_FETCH(ly, x)` (R241). -/
def State.bgPixel (s : State) : Except Fault BgPixel :=
  if lcdcBen s.regs.lcdc then
    s.tilePixel (mapBase (lcdcBmap s.regs.lcdc)) (bgPlane s.regs s.ly s.x)
  else .ok ⟨0, 0, false, false⟩

/-- `WIN_FETCH(ly, x)` where the window is active (R250). -/
def State.winPixel (s : State) : Except Fault BgPixel :=
  s.tilePixel (mapBase (lcdcWmap s.regs.lcdc)) (winPlane s.regs s.ly s.x)

/-- The fetched pixel into the transients, with its predicates (R36, R240). -/
def State.setBgPixel (s : State) (o : BgPixel) : State :=
  { s with pix := { s.pix with
      bgIdx := o.idx, bgPal := o.pal, bgOn := o.on, bgZero := bgZeroOf o.idx, tilePrio := o.prio } }

/-- `BG_FETCH` at the current position (R241). -/
def State.bgFetch (s : State) : Except Fault State := do
  let o ← s.bgPixel
  .ok (s.setBgPixel o)

/-- `WIN_FETCH` at the current position (R250). -/
def State.winFetch (s : State) : Except Fault State := do
  let o ← s.winPixel
  .ok (s.setBgPixel o)

/-- `BG_FETCH` (R241). -/
def execBgFetch (s : State) : Result := ofExcept s.bgFetch

/-- The free outcome of a `WIN_FETCH` outside the window; `bgZero` follows from the free index. When MONO the palette number
and `tilePrio` are 0 there too, as they always are (R36, R117). DESIGN CHOICE, log 17. -/
def State.winFetchFree (s : State) : State :=
  let d := s.drawFree
  let v := Config.winFetchFree d.1
  d.2.setBgPixel ⟨v.1, bgPalOf s.cfg.hwMode v.2.1, tilePrioOf s.cfg.hwMode v.2.2, true⟩

/-- `WIN_FETCH` (R250); its rule speaks only of positions where the window is active (log 17). -/
def execWinFetch (s : State) : Result :=
  if winActive s.regs s.ly s.x then ofExcept s.winFetch else .next s.winFetchFree

/-- `FETCH(ly, x)` (R240, R251): exactly one of the two sources. -/
def State.fetchPixel (s : State) : Except Fault State :=
  if winActive s.regs s.ly s.x then s.winFetch else s.bgFetch

/-- `FETCH(ly, x)` as a value (R240). -/
def State.fetchValue (s : State) : Except Fault BgPixel :=
  if winActive s.regs s.ly s.x then s.winPixel else s.bgPixel

/-! ### The rolling cursor (R253, R254) -/

/-- The plane position of the current pixel in the map of its source. -/
def sourcePlane (win : Bool) (r : Regs) (ly x : Nat) : Nat × Nat :=
  if win then winPlane r ly x else bgPlane r ly x

/-- The row a refetch loads: the tile row of the source, or the blank row of a background that is off (R241, R253). -/
def State.cursorRow (s : State) (win : Bool) (row col trow : Nat) : Except Fault (BitVec 16 × Byte) :=
  if win then s.tileRow (mapBase (lcdcWmap s.regs.lcdc)) row col trow
  else if lcdcBen s.regs.lcdc then s.tileRow (mapBase (lcdcBmap s.regs.lcdc)) row col trow
  else .ok (0, 0)

/-- A refetch at map cell `(row, col)`, pixel `fine` (R253). -/
def State.refetch (s : State) (win : Bool) (row col : BitVec 5) (trow : Nat) (fine : BitVec 3) : Except Fault Cursor := do
  let t ← s.cursorRow win row.toNat col.toNat trow
  .ok ⟨row, col, t.1, mattrPal t.2, mattrPrio t.2, fine, win⟩

/-- Aim the cursor at the current pixel: at column 0, and where the window becomes active (R254 a, c). -/
def State.aimCursor (s : State) : Except Fault Cursor :=
  let win := winActive s.regs s.ly s.x
  let p := sourcePlane win s.regs s.ly s.x
  s.refetch win (BitVec.ofNat 5 (p.1 / 8)) (BitVec.ofNat 5 (p.2 / 8)) (p.1 % 8) (BitVec.ofNat 3 (p.2 % 8))

/-- The cursor for the current column, from the cursor of the column before (R253, R254). -/
def State.rollCursor (s : State) : Except Fault Cursor :=
  let c := s.cursor
  if s.x = 0 ∨ (winActive s.regs s.ly s.x ∧ ¬ c.winActive) then s.aimCursor
  else if c.fine = 7 then
    s.refetch c.winActive c.mapRow (c.mapCol + 1) ((sourcePlane c.winActive s.regs s.ly s.x).1 % 8) 0
  else .ok { c with fine := c.fine + 1 }

/-- What the cursor outputs: `PIX(tileRow, fine)`, `tilePal`, `tilePrio` (R253). -/
def Cursor.output (c : Cursor) : BitVec 2 × BitVec 3 × Bool := (rowPixel c.tileRow c.fine, c.tilePal, c.tilePrio)

end Sys2Proof.Machine
end

