-- ==== Sys2Proof/Machine/Objects.lean ====
section
/-! DEFINITION. The object family: OBJ_SEARCH (R210 to R222) and OBJ_PICK (R221). -/

namespace Sys2Proof.Machine

/-- The four bytes of an OAM entry (R115). -/
structure OamEntry where
  oy : Byte
  ox : Byte
  tile : Byte
  attr : Byte
  deriving DecidableEq, Repr

/-- Entry `j` of OAM (R73, R115). -/
def State.readOam (s : State) (j : Nat) : Except Fault OamEntry := do
  let oy ← s.readByte .oam (4 * j)
  let ox ← s.readByte .oam (4 * j + 1)
  let tile ← s.readByte .oam (4 * j + 2)
  let attr ← s.readByte .oam (4 * j + 3)
  .ok ⟨oy, ox, tile, attr⟩

/-- The entry covers the current line (R211). -/
def State.entryCovers (s : State) (o : OamEntry) : Bool :=
  objCovers (objTop s.cfg o.oy) (objHeight s.regs.lcdc) s.ly

/-- The offset of the tile row an entry shows on the current line (R213, R214). -/
def State.entryAddr (s : State) (o : OamEntry) : Nat :=
  let h := objHeight s.regs.lcdc
  objAddr h o.tile (objRow (objTop s.cfg o.oy) h s.ly (attrYflip o.attr))

/-- The candidate record of an entry whose tile row is `b` (R216 to R219). -/
def candidateOf (m : HwMode) (o : OamEntry) (b : Byte × Byte) : Candidate where
  left := objLeft o.ox
  right := objLeft o.ox + 8
  row := unpackRow (attrXflip o.attr) b
  pal := objPalette m o.attr
  prio := objPrioOf o.attr

/-- Examine entry `j`: its candidate, if it covers the line (R222). -/
def State.scanEntry (s : State) (j : Nat) : Except Fault (Option Candidate) := do
  let o ← s.readOam j
  if s.entryCovers o then
    let b ← s.readPair (objBank s.cfg.hwMode o.attr) (s.entryAddr o)
    .ok (some (candidateOf s.cfg.hwMode o b))
  else .ok none

/-- `MAX_OBJ_PER_LINE` (R5). -/
def maxObjects : Nat := 10

/-- `OAM_ENTRIES` (R5). -/
def oamEntries : Nat := 40

/-- Examine the listed entries in order, stopping when ten are selected (R212). -/
def State.searchFrom (s : State) : List Nat → List Candidate → Except Fault (List Candidate)
  | [], found => .ok found
  | j :: rest, found =>
    if found.length = maxObjects then .ok found
    else do
      match ← s.scanEntry j with
      | some c => s.searchFrom rest (found ++ [c])
      | none => s.searchFrom rest found

/-- The candidate buffer of the current line (R220, R222). -/
def State.searchLine (s : State) : Except Fault (List Candidate) :=
  if lcdcOen s.regs.lcdc then s.searchFrom (List.range oamEntries) [] else .ok []

/-- `OBJ_SEARCH` (R210, R222). -/
def execObjSearch (s : State) : Result :=
  ofExcept <| do
    let found ← s.searchLine
    .ok { s with cands := found, x := 0, phase := .pixel }

/-- The colour index a candidate has at column `x`, if it covers the column (R221). -/
def Candidate.indexAt (c : Candidate) (x : Nat) : Option (BitVec 2) :=
  if c.left ≤ x ∧ (x : Int) < c.right then some (rowPixel c.row (BitVec.ofNat 3 (x - c.left).toNat)) else none

/-- The candidate covers column `x` with a colour index other than 0 (R221). -/
def Candidate.opaqueAt (c : Candidate) (x : Nat) : Bool := (c.indexAt x).getD 0 ≠ 0

/-- The first opaque candidate at column `x`, in buffer order (R221, D13). -/
def pickCandidate (x : Nat) (cands : List Candidate) : Option Candidate := cands.find? fun c => c.opaqueAt x

/-- `OBJ_PICK` at the current column (R221). -/
def State.objPick (s : State) : State :=
  match pickCandidate s.x s.cands with
  | some c =>
    { s with pix := { s.pix with
        objOpaque := true, objIdx := (c.indexAt s.x).getD 0, objPal := c.pal, objPrio := c.prio } }
  | none =>
    { s with pix := { s.pix with objOpaque := false, objIdx := 0, objPal := 0, objPrio := false } }

/-- `OBJ_PICK` (R221). -/
def execObjPick (s : State) : Result := .next s.objPick

end Sys2Proof.Machine
end

