-- ==== Sys2Proof/Machine/Pixel.lean ====
section
/-! DEFINITION. The pixel family: PRIO_MUX (R280, R281), PAL_LOOKUP (R282, R283), PIX_WRITE (R285), PIXEL (R286). -/

namespace Sys2Proof.Machine

/-- `PRIO_MUX` on the transient predicates (R280, R281). -/
def State.prioMux (s : State) : State :=
  let p := s.pix
  { s with pix := { p with sel := prioSelect s.cfg.hwMode p.objOpaque p.objPrio p.bgZero p.tilePrio } }

/-- `PRIO_MUX` (R280, R281). -/
def execPrioMux (s : State) : Result := .next s.prioMux

/-- The display pixel of the background side (R282): MONO with the background off shows the fixed ramp entry 0, MONO
otherwise palette 0. -/
def State.bgOut (s : State) : Pixel :=
  match s.cfg.hwMode with
  | .color => s.bgColor s.pix.bgPal s.pix.bgIdx
  | .mono => if s.pix.bgOn then s.bgColor 0 s.pix.bgIdx else monoRamp s.cfg .bg 0

/-- The display pixel of the selected side (R282, R283). DESIGN CHOICE, log 30: R283 gives the object side an index of 1 to 3,
and when MONO a palette of 0 or 1; beyond these, where only a `PAL_LOOKUP` handed over on its own reads, the entry the store
holds there is shown all the same. -/
def State.lookupOut (s : State) : Pixel :=
  match s.pix.sel with
  | .obj => s.objColor s.pix.objPal s.pix.objIdx
  | .bg => s.bgOut

/-- `PAL_LOOKUP` on the transients (R282, R283). -/
def State.palLookup (s : State) : State := { s with pix := { s.pix with out := s.lookupOut } }

/-- `PAL_LOOKUP` (R282, R283). -/
def execPalLookup (s : State) : Result := .next s.palLookup

/-- `PIX_WRITE` of the looked-up pixel at the current position (R285). -/
def State.pixWrite (s : State) : Except Fault State := s.writePixel s.ly s.x s.pix.out

/-- `PIX_WRITE` (R285). -/
def execPixWrite (s : State) : Result := ofExcept s.pixWrite

/-- The parts of one pixel in their order, up to the write (R286). -/
def State.composePixel (s : State) : Except Fault State := do
  let t ← s.fetchPixel
  t.objPick.prioMux.palLookup.pixWrite

/-- After the write: the next column or the end of the line; no transient survives (R36, R286). -/
def State.nextColumn (s : State) (c : Cursor) : State :=
  { s with cursor := c, pix := .clear, x := s.x + 1, phase := if s.x + 1 = width then .lineEnd else .pixel }

/-- `PIXEL` (R286); the cursor rolls along with it (R253; log 23). -/
def execPixel (s : State) : Result :=
  ofExcept <| do
    let c ← s.rollCursor
    let t ← s.composePixel
    .ok (t.nextColumn c)

end Sys2Proof.Machine
end

