-- ==== Sys2Proof/Machine/Dispatch.lean ====
section
/-! DEFINITION. The meaning of every command: one arm per constructor, one definition per arm. -/

namespace Sys2Proof.Machine

def exec (i : Instr) (s : State) : Host.Outcome State Fault Refusal :=
  match i with
  | .evLcdc clock data => Sys2Proof.Machine.execEvLcdc clock data s
  | .evScx clock data => Sys2Proof.Machine.execEvScx clock data s
  | .evScy clock data => Sys2Proof.Machine.execEvScy clock data s
  | .evWx clock data => Sys2Proof.Machine.execEvWx clock data s
  | .evBgp clock data => Sys2Proof.Machine.execEvBgp clock data s
  | .evObp0 clock data => Sys2Proof.Machine.execEvObp0 clock data s
  | .evObp1 clock data => Sys2Proof.Machine.execEvObp1 clock data s
  | .evPalbyte clock offset data => Sys2Proof.Machine.execEvPalbyte clock offset data s
  | .maskNormal k => Sys2Proof.Machine.execMaskNormal k s
  | .maskFrozen k => Sys2Proof.Machine.execMaskFrozen k s
  | .maskBlack k => Sys2Proof.Machine.execMaskBlack k s
  | .maskColor k => Sys2Proof.Machine.execMaskColor k s
  | .maskWhite mode k => Sys2Proof.Machine.execMaskWhite mode k s
  | .idle => Sys2Proof.Machine.execIdle s
  | .frameBegin => Sys2Proof.Machine.execFrameBegin s
  | .maskDispatch => Sys2Proof.Machine.execMaskDispatch s
  | .bufLock => Sys2Proof.Machine.execBufLock s
  | .fill => Sys2Proof.Machine.execFill s
  | .frameLoad => Sys2Proof.Machine.execFrameLoad s
  | .palReload => Sys2Proof.Machine.execPalReload s
  | .lineStart => Sys2Proof.Machine.execLineStart s
  | .lineBlank => Sys2Proof.Machine.execLineBlank s
  | .objSearch => Sys2Proof.Machine.execObjSearch s
  | .pixel => Sys2Proof.Machine.execPixel s
  | .bgFetch => Sys2Proof.Machine.execBgFetch s
  | .winFetch => Sys2Proof.Machine.execWinFetch s
  | .objPick => Sys2Proof.Machine.execObjPick s
  | .prioMux => Sys2Proof.Machine.execPrioMux s
  | .palLookup => Sys2Proof.Machine.execPalLookup s
  | .pixWrite => Sys2Proof.Machine.execPixWrite s
  | .lineEnd => Sys2Proof.Machine.execLineEnd s
  | .bufUnlock => Sys2Proof.Machine.execBufUnlock s
  | .present => Sys2Proof.Machine.execPresent s
  | .frameEnd => Sys2Proof.Machine.execFrameEnd s
  | .borderRender => Sys2Proof.Machine.execBorderRender s
  | .setColorPalette => Sys2Proof.Machine.execSetColorPalette s
  | .setMonoPalette => Sys2Proof.Machine.execSetMonoPalette s

end Sys2Proof.Machine
end

