-- ==== Sys2Proof/Machine/Step.lean ====
section
/-! DEFINITION. One step of the engine: fetch, decode, perform. -/

namespace Sys2Proof.Machine

/-- One step: the command fetched is decoded and performed; a word that is no command is refused by name (R130). -/
def step (s : State) : Host.Outcome State Fault Refusal :=
  match decode s.fetch with
  | .ok i => exec i s.fetched
  | .error r => .refused (.undecodable r)

/-- A frame's input with nothing in it: empty logs, MASKSEL 0, all snapshot bytes `0x00`, and a buffer that locks (log 8). -/
def FrameInput.empty : FrameInput where
  snap := ⟨⟨0, 0, 0, 0, 0, 0, 0, 0⟩, ⟨[], [], [], []⟩⟩
  rlog := []
  plog := []
  maskSel := 0
  lock := some 640

/-- Hand the engine a command for its next step: the code of a phase becomes the phase, any other word is issued on its
own (log 9). -/
def State.place (s : State) (c : Code) : State :=
  match c with
  | .seq w =>
    match Phase.ofCode w with
    | some p => { s with phase := p, issue := none }
    | none => { s with issue := some c }
  | _ => { s with issue := some c }

/-- A program stands ready: where no frame's input is present an empty one is, with its views bound (log 8). -/
def State.loaded (s : State) : State :=
  let inp := s.input.getD FrameInput.empty
  { s with input := some inp, views := some (s.views.getD inp.snap.views) }

/-- `s` with the instruction that the opcode table numbers `w` placed where `step` fetches next (logs 8, 9, 13). -/
def State.withFetchWord (s : State) (nbits w : Nat) : State :=
  match codeOfBytes (tableBytes nbits w) with
  | .ok c => s.loaded.place c
  | .error _ => s.loaded.place (.seq 0x1F#5)

end Sys2Proof.Machine
end

