-- ==== Sys2Proof/Safety.lean ====
section
/-! DEFINITION. What claims about runs speak of: well-shaped inputs, the invariant of the engine, the measure that ends
every operation, which pixels a frame has drawn, and when two frames are alike. -/

namespace Sys2Proof.Machine

/-! ### Shapes -/

/-- Every view is in canonical form and inside its space (R70). -/
def viewsOk (v : Views) : Bool :=
  Memory.wf Space.vram0.size v.vram0 && Memory.wf Space.vram1.size v.vram1
    && Memory.wf Space.oam.size v.oam && Memory.wf Space.palram.size v.palram

/-- The views a host request brings along are well shaped. -/
def requestOk : HostRequest → Bool
  | .startFrame f => viewsOk f.snap.views
  | _ => true

/-- Every memory of the state is in its canonical form. -/
def State.memOk (s : State) : Bool :=
  (s.views.all viewsOk) && (s.input.all fun f => viewsOk f.snap.views) && s.requests.all requestOk
    && bufferWf Space.fb.size s.fb && bufferWf Space.border.size s.border

/-- A log holds only records that may stand in it, sorted ascending by clock (R112, R130, R131, R150). -/
abbrev LogOk (good : BitVec 64 → Bool) (log : List (BitVec 64)) : Prop :=
  (∀ w ∈ log, good w = true) ∧ log.Pairwise fun a b => (recClock a).toNat ≤ (recClock b).toNat

/-- Both logs of a frame are well formed (R301). -/
abbrev LogsOk (m : HwMode) (inp : FrameInput) : Prop :=
  LogOk registerRecord inp.rlog ∧ LogOk (paletteRecord m) inp.plog

/-! ### The replay (R163) -/

/-- A register event writes its latch (R152 to R158). -/
def latch (r : Regs) (w : BitVec 64) : Regs :=
  let d := recData w
  match (recTarget w).toNat with
  | 0 => { r with lcdc := d }
  | 1 => { r with scx := d }
  | 2 => { r with scy := d }
  | 3 => { r with wx := d }
  | 4 => { r with bgp := d }
  | 5 => { r with obp0 := d }
  | 6 => { r with obp1 := d }
  | _ => r

/-- A palette-byte event stores its byte (R159). -/
def palByte (palram : List Host.Cell) (w : BitVec 64) : List Host.Cell := memSet (recOffset w).toNat (recData w) palram

/-- Only events whose clock has come have been applied. -/
abbrev Consumed (s : State) (inp : FrameInput) : Prop :=
  s.rp ≤ inp.rlog.length ∧ s.pp ≤ inp.plog.length
    ∧ (∀ w ∈ inp.rlog.take s.rp, (recClock w).toNat ≤ s.clk) ∧ (∀ w ∈ inp.plog.take s.pp, (recClock w).toNat < s.clk)

/-- Exactly the events whose clock has come have been applied (R90, R163). -/
abbrev CaughtUp (s : State) (inp : FrameInput) : Prop :=
  Consumed s inp
    ∧ (∀ w ∈ inp.rlog.drop s.rp, s.clk < (recClock w).toNat) ∧ (∀ w ∈ inp.plog.drop s.pp, s.clk ≤ (recClock w).toNat)

/-! ### The invariant -/

/-- No frame operation is running: the flag is clear and nothing is locked (R37). -/
abbrev Resting (s : State) : Prop := s.inProgress = false ∧ s.locked = none

/-- A frame operation is running on an input whose logs FRAME_BEGIN has passed. -/
abbrev Running (s : State) (inp : FrameInput) : Prop :=
  s.inProgress = true ∧ s.input = some inp ∧ LogsOk s.cfg.hwMode inp

/-- The buffer is locked, and the calls so far are `beforeFrame`, `lockBuffer` (R310, R356). -/
abbrev Drawing (s : State) (inp : FrameInput) : Prop :=
  Running s inp ∧ s.locked.isSome ∧ s.signals = [.beforeFrame, .lockBuffer]

/-- The latches, PALRAM and the other views are the snapshot's with exactly the applied events folded over them in log
order (R90, R163). -/
abbrev Replayed (s : State) (inp : FrameInput) : Prop :=
  s.regs = (inp.rlog.take s.rp).foldl latch inp.snap.regs
    ∧ s.views = some { inp.snap.views with palram := (inp.plog.take s.pp).foldl palByte inp.snap.views.palram }

/-- Inside the line loop of a Normal frame (R315). -/
abbrev InLine (s : State) (inp : FrameInput) : Prop :=
  Drawing s inp ∧ s.mask = .normal ∧ Replayed s inp ∧ s.ly < lines

/-- The calls made before `render` (R356): Frozen neither locks nor unlocks. -/
def drawCalls (m : Mask) : List Signal :=
  if m = .frozen then [.beforeFrame] else [.beforeFrame, .lockBuffer, .unlockBuffer]

/-- What holds at each phase of the sequencer (R319). -/
def PhaseInv (s : State) : Prop :=
  match s.phase with
  | .idle => Resting s
  | .borderRender => Resting s ∧ s.signals = []
  | .frameBegin => Resting s ∧ s.input.isSome ∧ s.signals = []
  | .maskDispatch => ∃ inp, Running s inp ∧ s.locked = none ∧ s.signals = [.beforeFrame]
  | .bufLock => ∃ inp, Running s inp ∧ s.locked = none ∧ s.signals = [.beforeFrame] ∧ s.mask ≠ .frozen
  | .fill => ∃ inp, Drawing s inp ∧ s.mask ≠ .frozen ∧ s.mask ≠ .normal
  | .frameLoad => ∃ inp, Drawing s inp ∧ s.mask = .normal
  | .palReload => ∃ inp, InLine s inp ∧ s.ly = 0 ∧ s.x = 0 ∧ s.rp = 0 ∧ s.pp = 0
  | .lineStart => ∃ inp, InLine s inp ∧ s.x = 0 ∧ Consumed s inp
  | .lineBlank => ∃ inp, InLine s inp ∧ s.x = 0 ∧ CaughtUp s inp
  | .objSearch => ∃ inp, InLine s inp ∧ s.x = 0 ∧ CaughtUp s inp
  | .pixel => ∃ inp, InLine s inp ∧ s.x < width ∧ CaughtUp s inp
  | .lineEnd => ∃ inp, InLine s inp ∧ CaughtUp s inp
  | .bufUnlock => ∃ inp, Drawing s inp ∧ s.mask ≠ .frozen ∧ (s.mask = .normal → s.ly = lines)
  | .present => ∃ inp, Running s inp ∧ s.locked = none ∧ s.signals = drawCalls s.mask
  | .frameEnd => ∃ inp, Running s inp ∧ s.locked = none ∧ s.signals = drawCalls s.mask ++ [.render]

/-- The palettes that a frame can show: all of them when COLOR, three when MONO (R41). -/
def paletteUsed (m : HwMode) (half : Bool) (p : BitVec 3) : Bool :=
  match m with
  | .color => true
  | .mono => if half then p = 0 || p = 1 else p = 0

/-- A candidate as sprite search writes it: 8 columns wide, its palette one of the hardware mode's (R217, R218). -/
def Candidate.shaped (m : HwMode) (c : Candidate) : Prop := c.right = c.left + 8 ∧ paletteUsed m true c.pal = true

/-- The invariant of the engine: no command is issued from outside, every memory is in canonical form, the position is in
its ranges with the line's clock `456 * ly` (R30, R32), at most ten candidates (R44),
each as sprite search writes them, and what each phase requires. -/
structure State.Inv (s : State) : Prop where
  noIssue : s.issue = none
  mems : s.memOk = true
  clock : s.clk = lineClocks * s.ly
  line : s.ly ≤ lines
  column : s.x ≤ width
  count : s.cands.length ≤ maxObjects
  shapes : ∀ c ∈ s.cands, c.shaped s.cfg.hwMode
  phases : PhaseInv s

/-! ### The end of every operation (R319) -/

/-- A number that every step outside IDLE lowers. -/
def State.rank (s : State) : Nat :=
  match s.phase with
  | .idle => 0
  | .borderRender => 1
  | .frameEnd => 1
  | .present => 2
  | .bufUnlock => 3
  | .fill => 4
  | .lineEnd => 10 + 200 * (lines - s.ly) - 195
  | .lineBlank => 10 + 200 * (lines - s.ly) - 1
  | .pixel => 10 + 200 * (lines - s.ly) - 2 - s.x
  | .objSearch => 10 + 200 * (lines - s.ly) - 1
  | .lineStart => 10 + 200 * (lines - s.ly)
  | .palReload => 11 + 200 * lines
  | .frameLoad => 12 + 200 * lines
  | .bufLock => 13 + 200 * lines
  | .maskDispatch => 14 + 200 * lines
  | .frameBegin => 15 + 200 * lines

/-! ### The transfer table (R319) -/

/-- FRAME_BEGIN goes on: a target is attached and both logs are well formed (R301). -/
def State.mayBegin (s : State) : Prop :=
  s.attached = true ∧ ∃ inp, s.input = some inp ∧ LogsOk s.cfg.hwMode inp

/-- The answer of the frame's lockBuffer call is a buffer (R310). -/
def State.mayLock (s : State) : Bool := (s.input.bind (·.lock)).isSome

/-- The rows of the transfer table with their conditions: a step from `s` to `t` goes to the phase of the row whose
condition holds. What the host asks for is the head of the queue of requests; without one IDLE stays IDLE (log 8). The
screen-mask state, the latches, `ly` and `x` are those the operation leaves, as the table has them. -/
def Transfer (s t : State) : Prop :=
  match s.phase with
  | .idle => t.phase = match s.requests with
      | [] | .detach :: _ => .idle
      | .attach _ :: _ | .resetTarget _ :: _ => .borderRender
      | .startFrame _ :: _ => .frameBegin
  | .frameBegin => (s.mayBegin → t.phase = .maskDispatch) ∧ (¬ s.mayBegin → t.phase = .idle)
  | .maskDispatch => t.phase = if t.mask = .frozen then .present else .bufLock
  | .bufLock => t.phase = if s.mayLock then if t.mask = .normal then .frameLoad else .fill else .idle
  | .fill => t.phase = .bufUnlock
  | .frameLoad => t.phase = .palReload
  | .palReload => t.phase = .lineStart ∧ t.ly = 0
  | .lineStart => t.phase = if t.regs.lcdc.getLsbD 7 then .objSearch else .lineBlank
  | .objSearch => t.phase = .pixel ∧ t.x = 0
  | .pixel => t.phase = if t.x = 160 then .lineEnd else .pixel
  | .lineBlank => t.phase = .lineEnd
  | .lineEnd => t.phase = if t.ly = 144 then .bufUnlock else .lineStart
  | .bufUnlock => t.phase = .present
  | .present => t.phase = .frameEnd
  | .frameEnd => t.phase = .idle
  | .borderRender => t.phase = .idle

/-! ### The palette store as a derived copy (R93) -/

/-- An entry of the store: the object half when `half`. -/
def State.storeAt (s : State) (half : Bool) (p : BitVec 3) (e : BitVec 2) : Pixel :=
  if half then s.objColor p e else s.bgColor p e

/-- The offset of a colour's low byte in PALRAM (R75). -/
def palOffset (half : Bool) (p : BitVec 3) (e : BitVec 2) : Nat :=
  (if half then 64 else 0) + 8 * p.toNat + 2 * e.toNat

/-- The raw colour that stands at an even offset of a palette memory (R83, R125). -/
def rawAt (palram : List Host.Cell) (off : Nat) : BitVec 15 := rawColor (memGet palram off) (memGet palram (off + 1))

/-- The palette latch of a monochrome target (R182). -/
def monoLatch (r : Regs) : MonoTarget → Byte
  | .bg => r.bgp
  | .obj0 => r.obp0
  | .obj1 => r.obp1

/-- The store is the copy of its source: of PALRAM when COLOR, of the three palette latches when MONO (R93). -/
def Coherent (s : State) : Prop :=
  match s.cfg.hwMode with
  | .color => ∀ v, s.views = some v → ∀ half p e, s.storeAt half p e = colorLut s.cfg (rawAt v.palram (palOffset half p e))
  | .mono => ∀ t e,
      s.storeAt (monoDest t).1 (monoDest t).2 e = monoRamp s.cfg t (monoEntry (monoLatch s.regs t) e)

/-- The display pixel of one column from what `FETCH` and `OBJ_PICK` supply (R286: the selection of R280 and R281, the
lookups of R282 and R283). -/
def columnPixel (s : State) (o : BgPixel) (pick : Option Candidate) : Pixel :=
  let bg : Pixel :=
    if s.cfg.hwMode = .mono then
      if o.on then s.storeAt false 0 o.idx else monoRamp s.cfg .bg 0
    else s.storeAt false o.pal o.idx
  match pick with
  | none => bg
  | some c =>
    if o.idx = 0 ∨ (¬ (s.cfg.hwMode = .color ∧ o.prio = true) ∧ c.prio = true) then
      s.storeAt true c.pal ((c.indexAt s.x).getD 0)
    else bg

/-! ### What a frame has drawn (R285, R318) -/

/-- How many pixels, in the order lines and columns are written (R285), the frame has drawn so far. -/
def State.drawn (s : State) : Nat :=
  match s.phase with
  | .palReload => 0
  | .lineStart | .lineBlank | .objSearch => width * s.ly
  | .pixel => width * s.ly + s.x
  | .lineEnd => width * (s.ly + 1)
  | .bufUnlock => width * lines
  | .present | .frameEnd => if s.mask = .frozen then 0 else width * lines
  | _ => 0

/-- Every pixel drawn so far has a value. -/
def Painted (s : State) : Prop := ∀ a, a < s.drawn → (lookupCell a s.fb).isSome

/-- Two states in the line loop of the same frame, whatever the engine did before: they agree on everything a Normal frame
reads, and on every pixel drawn so far (R382). -/
structure Alike (s t : State) : Prop where
  cfg : s.cfg = t.cfg
  input : s.input = t.input
  regs : s.regs = t.regs
  phase : s.phase = t.phase
  ly : s.ly = t.ly
  x : s.x = t.x
  clk : s.clk = t.clk
  rp : s.rp = t.rp
  pp : s.pp = t.pp
  mask : s.mask = t.mask
  views : s.views = t.views
  cands : s.phase = .pixel → s.cands = t.cands
  store : s.phase ≠ .palReload →
    ∀ half p e, paletteUsed s.cfg.hwMode half p = true → s.storeAt half p e = t.storeAt half p e
  pixels : ∀ a, a < s.drawn → lookupCell a s.fb = lookupCell a t.fb

/-- The phases of the Normal branch after FRAME_LOAD (R304). -/
def normalPhase : Phase → Bool
  | .palReload | .lineStart | .lineBlank | .objSearch | .pixel | .lineEnd => true
  | _ => false

/-! ### Pixels of the configured width (R6) -/

/-- The value fits in `PIXW` bits. -/
def fits (f : PixelFormat) (p : Pixel) : Prop := toPixel f p = p

/-- Every pixel the engine holds has `PIXW` bits. -/
structure PixelsFit (s : State) : Prop where
  store : ∀ half p e, fits s.cfg.format (s.storeAt half p e)
  out : fits s.cfg.format s.pix.out
  fb : ∀ c ∈ s.fb, fits s.cfg.format c.2
  border : ∀ c ∈ s.border, fits s.cfg.format c.2

/-! ### The cursor and the fetch function (R255) -/

/-- The cursor of the column before `x` stands where the fetch function does: it follows the source, the map cell and the
pixel of column `x - 1`, and holds the row a fetch there reads. -/
structure CursorAt (s : State) (c : Cursor) (x : Nat) : Prop where
  win : c.winActive = winActive s.regs s.ly x
  row : c.mapRow.toNat = (sourcePlane c.winActive s.regs s.ly x).1 / 8
  col : c.mapCol.toNat = (sourcePlane c.winActive s.regs s.ly x).2 / 8
  fine : c.fine.toNat = (sourcePlane c.winActive s.regs s.ly x).2 % 8
  content : ∃ a, s.cursorRow c.winActive c.mapRow.toNat c.mapCol.toNat ((sourcePlane c.winActive s.regs s.ly x).1 % 8)
    = .ok (c.tileRow, a) ∧ c.tilePal = mattrPal a ∧ c.tilePrio = mattrPrio a

end Sys2Proof.Machine
end

