-- ==== Sys2Proof/Certificates/Slice0/Obligations.lean ====
section
/-! DEFINITION. The statements for the provers, and the few definitions of the spec's own arithmetic they are written
with. Each docstring names the rules of spec/ it formalises. -/

open Sys2Proof Sys2Proof.Machine

namespace Sys2Proof.Claims

/-- The `BitVec 2` colour index whose high bit is `hi` and whose low bit is `lo`: `2 * hi + lo` (R81). -/
def index2 (hi lo : Bool) : BitVec 2 := (if hi then 2 else 0) + (if lo then 1 else 0)

/-- `TILE_PIXEL` (R244) in the spec's arithmetic: the colour index, the palette and the priority bit. Signed tile indices
as R245 tabulates them, pixels as R187 and R188 give them. -/
def tile (s : State) (v : Views) (base mrow mcol trow fine : Nat) : BitVec 2 × BitVec 3 × Bool :=
  let cell := base + 32 * mrow + mcol
  let idx := (memGet v.vram0 cell).toNat
  let attr : Byte := if s.cfg.hwMode = .color then memGet v.vram1 cell else 0
  let r := if attr.getLsbD 6 then 7 - trow else trow
  let tbase := if s.regs.lcdc.getLsbD 4 then 16 * idx else if idx < 128 then 0x1000 + 16 * idx else 16 * idx
  let bank := if attr.getLsbD 3 then v.vram1 else v.vram0
  let n := if attr.getLsbD 5 then fine else 7 - fine
  (index2 ((memGet bank (tbase + 2 * r + 1)).getLsbD n) ((memGet bank (tbase + 2 * r)).getLsbD n),
    BitVec.ofNat 3 (attr.toNat % 8), attr.getLsbD 7)

/-- The transients after a fetch that supplied `(idx, pal, prio)` (R240). -/
def fetched (s : State) (o : BitVec 2 × BitVec 3 × Bool) (on : Bool) : State :=
  { s with pix := { s.pix with
      bgIdx := o.1, bgPal := o.2.1, tilePrio := o.2.2, bgOn := on, bgZero := decide (o.1 = 0) } }

/-- The window supplies the pixel at the current position (R248): enabled, and the line and the column reached. -/
abbrev inWindow (s : State) : Prop :=
  s.regs.lcdc.getLsbD 5 = true ∧ s.regs.wy.toNat ≤ s.ly ∧ s.regs.wx.toNat ≤ s.x + 7

/-- `FETCH(ly, x)` (R240) in the spec's arithmetic: the window's tile where the window is active, else the background's
where the background is enabled, else colour index 0 of palette 0 from no layer (R241, R248 to R251). -/
def fetchAt (s : State) (v : Views) : BgPixel :=
  let supply (second : Bool) (py px : Nat) : BgPixel :=
    let o := tile s v (if second then 0x1C00 else 0x1800) (py / 8) (px / 8) (py % 8) (px % 8)
    ⟨o.1, o.2.1, o.2.2, true⟩
  if inWindow s then supply (s.regs.lcdc.getLsbD 6) (s.ly - s.regs.wy.toNat) (s.x + 7 - s.regs.wx.toNat)
  else if s.regs.lcdc.getLsbD 0 then
    supply (s.regs.lcdc.getLsbD 3) ((s.regs.scy.toNat + s.ly) % 256) ((s.regs.scx.toNat + s.x) % 256)
  else ⟨0, 0, false, false⟩

/-- The height of objects (R211). -/
def height (s : State) : Nat := if s.regs.lcdc.getLsbD 2 then 16 else 8

/-- The top line of OAM entry `j` (R127). -/
def top (s : State) (v : Views) (j : Nat) : Int := (memGet v.oam (4 * j)).toNat - s.cfg.objYBias

/-- OAM entry `j` covers the current line (R211). -/
def covers (s : State) (v : Views) (j : Nat) : Bool :=
  decide (top s v j ≤ s.ly ∧ (s.ly : Int) < top s v j + height s)

/-- The candidate record of OAM entry `j`, as R222 writes it; `row` is given by its pixels (R187, R188). -/
def isCandidate (s : State) (v : Views) (j : Nat) (c : Candidate) : Prop :=
  let ox := (memGet v.oam (4 * j + 1)).toNat
  let tile := (memGet v.oam (4 * j + 2)).toNat
  let attr := memGet v.oam (4 * j + 3)
  let h := height s
  let r0 := (s.ly - top s v j).toNat
  let r := if attr.getLsbD 6 then h - 1 - r0 else r0
  let t := if h = 16 then tile / 2 * 2 else tile
  let bank := if s.cfg.hwMode = .color ∧ attr.getLsbD 3 then v.vram1 else v.vram0
  let b0 := memGet bank (16 * t + 2 * r)
  let b1 := memGet bank (16 * t + 2 * r + 1)
  c.left = (ox : Int) - 8 ∧ c.right = ox ∧ c.prio = !attr.getLsbD 7
    ∧ c.pal = (if s.cfg.hwMode = .color then BitVec.ofNat 3 (attr.toNat % 8) else if attr.getLsbD 4 then 1 else 0)
    ∧ ∀ k : Nat, k < 8 → c.row.extractLsb' (2 * k) 2 =
        (let n := if attr.getLsbD 5 then k else 7 - k
         index2 (b1.getLsbD n) (b0.getLsbD n))

/-- Candidate `c` shows an opaque pixel at column `x`, of colour index `i` (R221). -/
def opaquePixel (c : Candidate) (x : Nat) (i : BitVec 2) : Prop :=
  c.left ≤ x ∧ (x : Int) < c.right ∧ i = rowPixel c.row (BitVec.ofNat 3 (x - c.left).toNat) ∧ i ≠ 0

/-- Record `n` of a log is the first that offends: it may not stand there, or its clock is below its predecessor's (R130,
R131), and every earlier record is in order. -/
def firstBad (good : BitVec 64 → Bool) (log : List (BitVec 64)) (n : Nat) : Prop :=
  LogOk good (log.take n) ∧ n < log.length ∧ ¬ LogOk good (log.take (n + 1))

/-- A colour in `PIXW` bits (R6). -/
def inWidth (f : PixelFormat) (p : Pixel) : Pixel :=
  match f with
  | .pf32 => p
  | .pf16 => BitVec.ofNat 32 (p.toNat % 2 ^ 16)

/-- `x8(v) = (v << 3) | (v >> 2)` (R183), in the spec's arithmetic. -/
def channel8 (v : Nat) : Nat := v <<< 3 ||| v >>> 2

/-- The display pixel at column `x`, row `y` of the border (R341, R342): map cell `(y / 8, x / 8)` gives tile, palette and
flips, tile and palette numbers without bound (log 19); the colour index is assembled from four bit planes, bit 7 leftmost; the palette has 16 colours. What a map entry, a
plane byte and a palette entry are is open (log 19). -/
def borderAt (s : State) (y x : Nat) : Pixel :=
  let b := s.borderIn
  let e := Config.borderTile b.map (y / 8) (x / 8)
  let row := if e.yflip then 7 - y % 8 else y % 8
  let n := if e.xflip then x % 8 else 7 - x % 8
  let plane (k : Nat) : Nat := if (Config.borderPlane b.chars e.tile row k).getLsbD n then 2 ^ k else 0
  inWidth s.cfg.format (Config.borderColor b.region e.pal (BitVec.ofNat 4 (plane 0 + plane 1 + plane 2 + plane 3)))

/-- The default contents of `COLOR_LUT` (R183), in the spec's arithmetic. -/
def lutDefault (f : PixelFormat) (raw : Nat) : Nat :=
  let r := raw % 32
  let g := raw / 32 % 32
  let b := raw / 1024
  match f with
  | .pf32 => 0xFF000000 ||| channel8 r <<< 16 ||| channel8 g <<< 8 ||| channel8 b
  | .pf16 => r <<< 11 ||| (g <<< 1 ||| g >>> 4) <<< 5 ||| b

/-- The default greys of every monochrome ramp (R184). -/
def rampDefault (f : PixelFormat) : BitVec 2 → Pixel :=
  match f with
  | .pf32 => fun j => if j = 0 then 0xFFFFFFFF else if j = 1 then 0xFFAAAAAA else if j = 2 then 0xFF555555 else 0xFF000000
  | .pf16 => fun j => if j = 0 then 0xFFFF else if j = 1 then 0xAD55 else if j = 2 then 0x52AA else 0x0000

/-- A fault took an operation back to IDLE before it drew anything (R358). -/
def faulted (s : State) (r : Report) : State := { s with inProgress := false, report := some r, phase := .idle }

end Sys2Proof.Claims

open Sys2Proof.Claims

/-! ### Encodings -/

/-- R111, R112, R120, R121: no bit of an encoding is dropped. -/
def Obligations.DecodeOfEncodeIsIdentity : Prop :=
  ∀ i : Instr, i.wf = true → decode (encode i) = .ok i

/-- R110, R140: every accepted word has one meaning. -/
def Obligations.EncodeOfDecodeIsTheWord : Prop :=
  ∀ (c : Code) (i : Instr), decode c = .ok i → i.wf = true ∧ encode i = c

/-- R130, R140: a word is a command exactly when it selects a row of the opcode table, and then the one row of its own
mnemonic. -/
def Obligations.DecoderAgreesWithOpcodeTable : Prop :=
  (∀ c : Code, (∃ i, decode c = .ok i) ↔ ∃ r ∈ opcodeRows, c.selects r.2 = true)
    ∧ ∀ (c : Code) (i : Instr), decode c = .ok i → ∀ r ∈ opcodeRows, (c.selects r.2 = true ↔ r.1 = i.mnemonic)

/-- R111, R120, R121: words of the spec's own tables decode as it says (95_test_vectors.md section 2.1). -/
def Obligations.SpecWordsDecode : Prop :=
  decode (.evt 0x00000E4010000004) = .ok (.evScx 3648 4)
    ∧ decode (.evt 0x0000006470007F7F) = .ok (.evPalbyte 100 127 0x7F)
    ∧ decode (.evt 0x0000000080000000) = .error .reservedTarget
    ∧ decode (.evt 0x0000000010008004) = .error .zeroField
    ∧ decode (.evt 0x0000000010000104) = .error .offsetField
    ∧ decode (.mask 0x183E0) = .ok (.maskColor 0x03E0)
    ∧ decode (.mask 0x3ABCD) = .ok (.maskWhite 7 0x2BCD)
    ∧ decode (.seq 0x0A) = .ok .pixel
    ∧ decode (.seq 0x17) = .ok .setMonoPalette
    ∧ decode (.seq 0x18) = .error .reservedOperation

/-! ### The step -/

/-- R30, R121 and log 9: a step performs the command it fetches, which is the operation its phase names unless one was
handed over; a word that is no command is refused. -/
def Obligations.StepRunsFetchedCommand : Prop :=
  (∀ (s : State) (i : Instr), decode s.fetch = .ok i → step s = exec i { s with issue := none })
    ∧ (∀ (s : State) (r : Reject), decode s.fetch = .error r → step s = .refused (.undecodable r))
    ∧ (∀ (s : State) (c : Code), s.issue = some c → s.fetch = c)
    ∧ (∀ s : State, s.issue = none → s.fetch = .seq s.phase.code ∧ { s with issue := none } = s)

/-- R37, R38, R39, R52, R380 for what they state, the spec's decision D24 (log 20); the other reset values are the model's
choice (logs 1, 4 to 8). -/
def Obligations.ResetValues : Prop :=
  ∀ cfg : Config,
    let s := State.resetOf cfg
    s.phase = .idle ∧ s.inProgress = false ∧ s.attached = false ∧ s.mask = .white ∧ s.views = none ∧ s.cfg = cfg

/-- The invariant holds after reset, in every configuration. -/
def Obligations.ResetMeetsInvariant : Prop :=
  State.reset.Inv ∧ ∀ cfg : Config, (State.resetOf cfg).Inv

/-! ### Timed events -/

/-- R152 to R155: the latch takes the byte, and nothing else changes; R156 to R158 with the spec's decision D12 (log 20):
so too for the three palette latches when COLOR. -/
def Obligations.RegisterEventsWriteTheirLatch : Prop :=
  ∀ (s : State) (c : BitVec 32) (d : Byte),
    exec (.evLcdc c d) s = .next { s with regs := { s.regs with lcdc := d } }
    ∧ exec (.evScx c d) s = .next { s with regs := { s.regs with scx := d } }
    ∧ exec (.evScy c d) s = .next { s with regs := { s.regs with scy := d } }
    ∧ exec (.evWx c d) s = .next { s with regs := { s.regs with wx := d } }
    ∧ (s.cfg.hwMode = .color →
      exec (.evBgp c d) s = .next { s with regs := { s.regs with bgp := d } }
      ∧ exec (.evObp0 c d) s = .next { s with regs := { s.regs with obp0 := d } }
      ∧ exec (.evObp1 c d) s = .next { s with regs := { s.regs with obp1 := d } })

/-- What R156 to R158 and R182 say of a palette latch event when MONO: the latch is `regs'`, the four entries of the
target's palette are decoded from the byte, and nothing else changes (log 10: the operand latch is clear). -/
def Sys2Proof.Claims.MonoWrites (s : State) (r : Result) (regs' : Regs) (m : MonoTarget) (d : Byte) : Prop :=
  ∃ t, r = .next t
    ∧ t = { s with regs := regs', bgpal := t.bgpal, objpal := t.objpal, monoArg := .clear }
    ∧ ∀ half p e, t.storeAt half p e =
        if half = (monoDest m).1 ∧ p = (monoDest m).2 then monoRamp s.cfg m (d.extractLsb' (2 * e.toNat) 2)
        else s.storeAt half p e

/-- R156, R157, R158, R182, R41. -/
def Obligations.PaletteLatchEventsWhenMono : Prop :=
  ∀ (s : State) (c : BitVec 32) (d : Byte), s.cfg.hwMode = .mono →
    MonoWrites s (exec (.evBgp c d) s) { s.regs with bgp := d } .bg d
    ∧ MonoWrites s (exec (.evObp0 c d) s) { s.regs with obp0 := d } .obj0 d
    ∧ MonoWrites s (exec (.evObp1 c d) s) { s.regs with obp1 := d } .obj1 d

/-- R74, R125, R159: the byte is stored, its colour recomputed from both bytes, and nothing else changes. -/
def Obligations.PaletteByteEventStoresAndRecomputes : Prop :=
  ∀ (s : State) (v : Views) (c : BitVec 32) (off : BitVec 7) (d : Byte),
    s.cfg.hwMode = .color → s.views = some v →
    ∃ t w, exec (.evPalbyte c off d) s = .next t
      ∧ t = { s with views := some { v with palram := w }, bgpal := t.bgpal, objpal := t.objpal, colorArg := .clear }
      ∧ (∀ a, memGet w a = if a = off.toNat then d else memGet v.palram a)
      ∧ ∀ half p e, t.storeAt half p e =
          if palOffset half p e = off.toNat / 2 * 2 then colorLut s.cfg (rawAt w (off.toNat / 2 * 2))
          else s.storeAt half p e

/-- R70, R159 with the spec's decision D12 (log 20): when MONO there is no palette memory, and the event stops by name (log
16). -/
def Obligations.PaletteByteEventStopsWhenMono : Prop :=
  ∀ (s : State) (c : BitVec 32) (off : BitVec 7) (d : Byte), s.cfg.hwMode = .mono →
    exec (.evPalbyte c off d) s = .fault (.absentSpace .palram)

/-! ### The palette store -/

/-- R181: exactly the addressed entry takes `COLOR_LUT[raw]`. -/
def Obligations.SetColorPaletteWritesOneEntry : Prop :=
  ∀ s : State, ∃ t, exec .setColorPalette s = .next t
    ∧ t = { s with bgpal := t.bgpal, objpal := t.objpal }
    ∧ ∀ half p e, t.storeAt half p e =
        if half = s.colorArg.half ∧ p = s.colorArg.p ∧ e = s.colorArg.e then colorLut s.cfg s.colorArg.raw
        else s.storeAt half p e

/-- R182: exactly the four entries of the target's palette take the ramp colours the register selects. -/
def Obligations.SetMonoPaletteWritesFourEntries : Prop :=
  ∀ s : State, ∃ t, exec .setMonoPalette s = .next t
    ∧ t = { s with bgpal := t.bgpal, objpal := t.objpal }
    ∧ ∀ half p e, t.storeAt half p e =
        if half = (monoDest s.monoArg.target).1 ∧ p = (monoDest s.monoArg.target).2
        then monoRamp s.cfg s.monoArg.target (s.monoArg.reg.extractLsb' (2 * e.toNat) 2)
        else s.storeAt half p e

/-- R185, R75, R125 with the spec's decision D11 (log 20): when COLOR every one of the 64 entries is rebuilt from its byte
pair. -/
def Obligations.PalReloadRebuildsColorStore : Prop :=
  ∀ (s : State) (v : Views), s.cfg.hwMode = .color → s.views = some v →
    ∃ t, exec .palReload s = .next t
      ∧ t = { s with bgpal := t.bgpal, objpal := t.objpal, colorArg := .clear, phase := .lineStart }
      ∧ ∀ half p e, t.storeAt half p e = colorLut s.cfg (rawAt v.palram (palOffset half p e))

/-- R185, R41 with the spec's decisions D10 and D11 (log 20): when MONO the three palettes are decoded from the three
latches, the other 13 keep what they held. -/
def Obligations.PalReloadRebuildsMonoStore : Prop :=
  ∀ s : State, s.cfg.hwMode = .mono →
    ∃ t, exec .palReload s = .next t
      ∧ t = { s with bgpal := t.bgpal, objpal := t.objpal, monoArg := .clear, phase := .lineStart }
      ∧ (∀ m e, t.storeAt (monoDest m).1 (monoDest m).2 e
          = monoRamp s.cfg m ((monoLatch s.regs m).extractLsb' (2 * e.toNat) 2))
      ∧ ∀ half p e, paletteUsed .mono half p = false → t.storeAt half p e = s.storeAt half p e

/-- R93: in the line loop of a running frame the store stays the copy of its source, through every step; and PAL_RELOAD
makes it so. -/
def Obligations.PaletteStoreStaysCoherent : Prop :=
  (∀ s t : State, s.Inv → s.phase = .palReload → step s = .next t → Coherent t)
    ∧ ∀ s t : State, s.Inv → normalPhase s.phase = true → Coherent s → step s = .next t → Coherent t

/-! ### The screen mask -/

/-- R303 to R308: each command enters its state and takes its branch. -/
def Obligations.MaskCommandsEnterTheirState : Prop :=
  ∀ (s : State) (m : BitVec 3) (k : BitVec 15),
    exec (.maskNormal k) s = .next { s with mask := .normal, phase := .bufLock }
    ∧ exec (.maskFrozen k) s = .next { s with mask := .frozen, phase := .present }
    ∧ exec (.maskBlack k) s = .next { s with mask := .black, phase := .bufLock }
    ∧ exec (.maskColor k) s = .next { s with mask := .colorMask k, phase := .bufLock }
    ∧ exec (.maskWhite m k) s = .next { s with mask := .white, phase := .bufLock }

/-- R303, R120, R133: the selector's mode and `k` decide the state, and every selector has one. -/
def Obligations.MaskDispatchDecodesSelector : Prop :=
  ∀ (s : State) (inp : FrameInput), s.input = some inp →
    let mode := inp.maskSel.toNat / 2 ^ 15
    let k := BitVec.ofNat 15 (inp.maskSel.toNat % 2 ^ 15)
    let m : Mask := if mode = 0 then .normal else if mode = 1 then .frozen else if mode = 2 then .black
      else if mode = 3 then .colorMask k else .white
    exec .maskDispatch s = .next { s with mask := m, phase := if mode = 1 then .present else .bufLock }

/-- R306 to R309: every pixel takes the state's colour and nothing else changes; that the colour of ColorMask(k) is
COLOR_LUT[k] is the spec's decision D6 (log 20). Under Normal and Frozen (log 18) every pixel takes one and the same colour.
The buffer's lock is not looked at (log 27). -/
def Obligations.FillPaintsEveryPixel : Prop :=
  ∀ s : State, ∃ t c, exec .fill s = .next t
    ∧ t = { s with fb := t.fb, phase := .bufUnlock, free := t.free }
    ∧ (∀ a, lookupCell a t.fb = if a < lines * width then some c else none)
    ∧ (s.mask = .black → c = blackPixel s.cfg)
    ∧ (∀ k, s.mask = .colorMask k → c = colorLut s.cfg k)
    ∧ (s.mask = .white → c = whitePixel s.cfg)
    ∧ (s.mask ≠ .normal → s.mask ≠ .frozen → t.free = s.free)

/-! ### The frame sequencer -/

/-- R300, R319, R320 (log 8): IDLE takes up the host's next request, or stays idle. -/
def Obligations.IdleTakesUpHostRequests : Prop :=
  ∀ s : State,
    (s.requests = [] → exec .idle s = .next { s with phase := .idle })
    ∧ (∀ b rest, s.requests = .attach b :: rest → exec .idle s = .next { s with
        requests := rest, attached := true, borderIn := b, signals := [], report := none, phase := .borderRender })
    ∧ (∀ b rest, s.requests = .resetTarget b :: rest → exec .idle s = .next { s with
        requests := rest, borderIn := b, signals := [], report := none, phase := .borderRender })
    ∧ (∀ rest, s.requests = .detach :: rest → exec .idle s = .next { s with
        requests := rest, attached := false, phase := .idle })
    ∧ (∀ f rest, s.requests = .startFrame f :: rest → exec .idle s = .next { s with
        requests := rest, input := some f, signals := [], report := none, phase := .frameBegin })

/-- R301, R313, R352, R353, R358 with the spec's decisions D21 and D23 (log 20): the three ways FRAME_BEGIN ends. That RLOG
is looked at first is the model's choice (log 14). -/
def Obligations.FrameBeginChecksAndStarts : Prop :=
  ∀ s : State,
    (s.attached = false → exec .frameBegin s = .next { s with inProgress := false, phase := .idle })
    ∧ ∀ inp, s.attached = true → s.input = some inp →
      (LogsOk s.cfg.hwMode inp → exec .frameBegin s = .next { s with
          inProgress := true, signals := s.signals ++ [.beforeFrame], phase := .maskDispatch })
      ∧ (s.locked = none → ∀ n, firstBad registerRecord inp.rlog n →
          exec .frameBegin s = .next (faulted s (.malformedInput .rlog n)))
      ∧ (s.locked = none → LogOk registerRecord inp.rlog → ∀ n, firstBad (paletteRecord s.cfg.hwMode) inp.plog n →
          exec .frameBegin s = .next (faulted s (.malformedInput .plog n)))

/-- R112, R130, R159: which records may stand in which log. -/
def Obligations.LogRecordsAdmitted : Prop :=
  ∀ w : BitVec 64,
    (registerRecord w = true ↔ w.toNat / 2 ^ 28 % 2 ^ 4 ≤ 6 ∧ w.toNat / 2 ^ 8 % 2 ^ 20 = 0)
    ∧ (paletteRecord .color w = true ↔ w.toNat / 2 ^ 28 % 2 ^ 4 = 7 ∧ w.toNat / 2 ^ 15 % 2 ^ 13 = 0)
    ∧ paletteRecord .mono w = false

/-- R310, R354, R358 with the spec's decision D23 (log 20): a lock that succeeds, and a lock that fails. -/
def Obligations.BufLockSucceedsOrFaults : Prop :=
  ∀ (s : State) (inp : FrameInput), s.input = some inp →
    (∀ stride, inp.lock = some stride → exec .bufLock s = .next { s with
        signals := s.signals ++ [.lockBuffer], locked := some stride,
        phase := if s.mask = .normal then .frameLoad else .fill })
    ∧ (inp.lock = none → s.locked = none →
        exec .bufLock s = .next (faulted { s with signals := s.signals ++ [.lockBuffer] } .bufferUnavailable))

/-- R310, R311, R312, R313: unlocking, presenting, ending. -/
def Obligations.UnlockPresentAndEnd : Prop :=
  ∀ s : State,
    exec .bufUnlock s = .next { s with
      signals := s.signals ++ [.unlockBuffer], locked := none, phase := .present }
    ∧ exec .present s = .next { s with signals := s.signals ++ [.render], phase := .frameEnd }
    ∧ exec .frameEnd s = .next { s with
      signals := s.signals ++ [.afterFrame], inProgress := false, input := none, views := none, phase := .idle }

/-- R314, R31: the latches and views come from the snapshot, the position is zeroed. -/
def Obligations.FrameLoadCopiesSnapshot : Prop :=
  ∀ (s : State) (inp : FrameInput), s.input = some inp →
    exec .frameLoad s = .next { s with
      regs := inp.snap.regs, views := some inp.snap.views,
      ly := 0, x := 0, clk := 0, rp := 0, pp := 0, phase := .palReload }

/-- R151, R163, R90, R162: exactly the due events of both logs are applied, in log order, `<=` and `<`; the latches and
PALRAM are what the due events make of them; nothing else changes (log 10: the operand latches may be cleared). -/
def Obligations.LineStartAppliesExactlyDueEvents : Prop :=
  ∀ (s : State) (inp : FrameInput) (v : Views),
    s.input = some inp → s.views = some v → LogsOk s.cfg.hwMode inp → Consumed s inp →
    ∃ t w, exec .lineStart s = .next t
      ∧ CaughtUp t inp
      ∧ t = { s with
          regs := t.regs, views := some { v with palram := w }, bgpal := t.bgpal, objpal := t.objpal,
          colorArg := t.colorArg, monoArg := t.monoArg, rp := t.rp, pp := t.pp, phase := t.phase }
      ∧ s.rp ≤ t.rp ∧ s.pp ≤ t.pp
      ∧ t.regs = ((inp.rlog.take t.rp).drop s.rp).foldl latch s.regs
      ∧ w = ((inp.plog.take t.pp).drop s.pp).foldl (fun m e => memSet (recOffset e).toNat (recData e) m) v.palram
      ∧ t.phase = (if t.regs.lcdc.getLsbD 7 then .objSearch else .lineBlank)

/-- R316: the line is white, and nothing else changes. That a disabled display shows a white line is the spec's decision
D17 (log 20); the buffer's lock is not looked at (log 27). -/
def Obligations.LineBlankWhitensTheLine : Prop :=
  ∀ s : State, s.ly < lines → ∃ t, exec .lineBlank s = .next t
    ∧ t = { s with fb := t.fb, phase := .lineEnd }
    ∧ ∀ a, lookupCell a t.fb =
        if 160 * s.ly ≤ a ∧ a < 160 * s.ly + 160 then some (whitePixel s.cfg) else lookupCell a s.fb

/-- R317, R31: the next line, or the end of the line loop. -/
def Obligations.LineEndAdvancesTheLine : Prop :=
  ∀ s : State, exec .lineEnd s = .next { s with
    x := 0, ly := s.ly + 1, clk := s.clk + 456, phase := if s.ly + 1 = 144 then .bufUnlock else .lineStart }

/-! ### Objects -/

/-- R210 to R219, R222: the candidates are those of the first ten OAM entries that cover the line, in table order, each as
its entry and its tile row say; nothing else changes. R220: with objects disabled no memory is read and none is found. -/
def Obligations.ObjSearchSelectsFirstTen : Prop :=
  (∀ s : State, s.regs.lcdc.getLsbD 1 = false →
      exec .objSearch s = .next { s with cands := [], x := 0, phase := .pixel })
    ∧ ∀ (s : State) (v : Views), s.views = some v → s.regs.lcdc.getLsbD 1 = true →
      ∃ t, exec .objSearch s = .next t
        ∧ t = { s with cands := t.cands, x := 0, phase := .pixel }
        ∧ List.Forall₂ (isCandidate s v) (((List.range 40).filter (covers s v)).take 10) t.cands

/-- R221 with the spec's decision D13 (log 20): the first candidate in buffer order with an opaque pixel at the column. -/
def Obligations.ObjPickTakesFirstOpaque : Prop :=
  ∀ s : State,
    ((∀ c ∈ s.cands, ∀ i, ¬ opaquePixel c s.x i) → exec .objPick s = .next { s with
        pix := { s.pix with objOpaque := false, objIdx := 0, objPal := 0, objPrio := false } })
    ∧ ∀ before c after i, s.cands = before ++ c :: after → (∀ d ∈ before, ∀ j, ¬ opaquePixel d s.x j) →
        opaquePixel c s.x i → exec .objPick s = .next { s with
          pix := { s.pix with objOpaque := true, objIdx := i, objPal := c.pal, objPrio := c.prio } }

/-! ### Fetch -/

/-- R240 to R246: the background pixel of plane position `(SCY + ly, SCX + x)` modulo 256. R241: with the background
disabled no memory is read, and the pixel is colour index 0, palette 0, without tile priority: the spec's decision D18 (log
20). -/
def Obligations.BgFetchReadsThePlane : Prop :=
  (∀ s : State, s.regs.lcdc.getLsbD 0 = false → exec .bgFetch s = .next (fetched s (0, 0, false) false))
  ∧ ∀ (s : State) (v : Views), s.views = some v → s.regs.lcdc.getLsbD 0 = true →
    let py := (s.regs.scy.toNat + s.ly) % 256
    let px := (s.regs.scx.toNat + s.x) % 256
    let base := if s.regs.lcdc.getLsbD 3 then 0x1C00 else 0x1800
    exec .bgFetch s = .next (fetched s (tile s v base (py / 8) (px / 8) (py % 8) (px % 8)) true)

/-- R248 to R252 with the spec's decisions D15 and D16 (log 20): where the window is active, its own map unscrolled from its
top left corner. -/
def Obligations.WinFetchReadsTheWindow : Prop :=
  ∀ (s : State) (v : Views), s.views = some v → s.ly < lines → s.x < width →
    s.regs.lcdc.getLsbD 5 = true → s.regs.wy.toNat ≤ s.ly → s.regs.wx.toNat ≤ s.x + 7 →
    let wpy := s.ly - s.regs.wy.toNat
    let wpx := s.x + 7 - s.regs.wx.toNat
    let base := if s.regs.lcdc.getLsbD 6 then 0x1C00 else 0x1800
    exec .winFetch s = .next (fetched s (tile s v base (wpy / 8) (wpx / 8) (wpy % 8) (wpx % 8)) true)

/-- Log 17: outside the window (R248) WIN_FETCH goes on with a pixel that nothing constrains, but that when MONO its
palette number and `tilePrio` are 0 as always (R36, R117), and changes nothing else. -/
def Obligations.WinFetchOutsideTheWindowIsFree : Prop :=
  ∀ s : State, ¬ inWindow s →
    ∃ o, exec .winFetch s = .next { fetched s o true with free := s.free + 1 }
      ∧ (s.cfg.hwMode = .mono → o.2 = (0, false))

/-- R253 to R255: the cursor rolled on from one that stood right at the column before, and at column 0 whatever it held,
stands right at this column, and its output is FETCH at this column (R240, R248 to R251). -/
def Obligations.CursorAgreesWithFetch : Prop :=
  ∀ (s : State) (v : Views), s.views = some v → s.ly < lines → s.x < width →
    (s.x = 0 ∨ CursorAt s s.cursor (s.x - 1)) →
    let o := fetchAt s v
    s.fetchValue = .ok o ∧ ∃ c, s.rollCursor = .ok c ∧ CursorAt s c s.x ∧ Cursor.output c = (o.idx, o.pal, o.prio)

/-- R187, R188: what the two unpack tables hold. -/
def Obligations.UnpackTablesHoldTheLanes : Prop :=
  ∀ (b0 b1 : Byte) (k : BitVec 3),
    rowPixel (unpack (b1 ++ b0)) k = index2 (b1.getLsbD (7 - k.toNat)) (b0.getLsbD (7 - k.toNat))
    ∧ rowPixel (unpackFlip (b1 ++ b0)) k = index2 (b1.getLsbD k.toNat) (b0.getLsbD k.toNat)

/-- R189: the law of the pair. -/
def Obligations.FlipTablesAreMirrored : Prop :=
  ∀ (i : BitVec 16) (k : BitVec 3), rowPixel (unpackFlip i) (7 - k) = rowPixel (unpack i) k

/-- R84, R86: every pair is read at an even offset, and every offset lies in its space. -/
def Obligations.AddressesEvenAndInRange : Prop :=
  (∀ second row col, row < 32 → col < 32 →
      0x1800 ≤ cellAddr (mapBase second) row col ∧ cellAddr (mapBase second) row col ≤ 0x1FFF)
    ∧ (∀ idx vflip trow, trow < 8 →
      tileRowAddr true idx vflip trow + 1 ≤ 0x0FFF ∧ tileRowAddr true idx vflip trow % 2 = 0
      ∧ 0x0800 ≤ tileRowAddr false idx vflip trow ∧ tileRowAddr false idx vflip trow + 1 ≤ 0x17FF
      ∧ tileRowAddr false idx vflip trow % 2 = 0)
    ∧ (∀ lcdc tile r, r < objHeight lcdc →
      objAddr (objHeight lcdc) tile r + 1 ≤ 0x0FFF ∧ objAddr (objHeight lcdc) tile r % 2 = 0)
    ∧ ∀ half p e, palOffset half p e + 1 ≤ 127 ∧ palOffset half p e % 2 = 0

/-- R78: in a locked buffer of a sufficient stride two pixels share no byte, and no byte beyond column 159 is a pixel's. -/
def Obligations.PixelsOccupyDisjointBytes : Prop :=
  ∀ (f : PixelFormat) (stride ly x ly' x' i j : Nat), width * pixelBytes f ≤ stride → x < width → x' < width →
    i < pixelBytes f → j < pixelBytes f →
    (fbOffset f stride ly x + i = fbOffset f stride ly' x' + j → ly = ly' ∧ x = x' ∧ i = j)
    ∧ fbOffset f stride ly x + i < ly * stride + width * pixelBytes f

/-! ### Priority, lookup, pixel -/

/-- R280, R281: the priority table in both hardware modes. -/
def Obligations.PrioMuxIsThePriorityTable : Prop :=
  ∀ s : State, ∃ r : Sel, exec .prioMux s = .next { s with pix := { s.pix with sel := r } }
    ∧ (s.cfg.hwMode = .color → (r = .obj ↔ s.pix.objOpaque = true ∧
        (s.pix.bgZero = true ∨ (s.pix.tilePrio = false ∧ s.pix.objPrio = true))))
    ∧ (s.cfg.hwMode = .mono → (r = .obj ↔ s.pix.objOpaque = true ∧
        (s.pix.bgZero = true ∨ s.pix.objPrio = true)))

/-- R282, R283 with the spec's decision D18 (log 20): which entry of the store, or of the fixed ramp, is shown. That an object
index of 0, or when MONO an object palette above 1, shows its entry too is the model's choice (log 30). -/
def Obligations.PalLookupReadsTheStore : Prop :=
  ∀ s : State, ∃ p : Pixel, exec .palLookup s = .next { s with pix := { s.pix with out := p } }
    ∧ (s.pix.sel = .obj → p = s.storeAt true s.pix.objPal s.pix.objIdx)
    ∧ (s.pix.sel = .bg → s.cfg.hwMode = .color → p = s.storeAt false s.pix.bgPal s.pix.bgIdx)
    ∧ (s.pix.sel = .bg → s.cfg.hwMode = .mono → s.pix.bgOn = true → p = s.storeAt false 0 s.pix.bgIdx)
    ∧ (s.pix.sel = .bg → s.cfg.hwMode = .mono → s.pix.bgOn = false → p = monoRamp s.cfg .bg 0)

/-- R285, R78: one pixel is written; a position outside 144 by 160 does not exist (log 28), and the buffer's lock is not
looked at (log 27). -/
def Obligations.PixWriteWritesOnePixel : Prop :=
  ∀ s : State,
    (s.ly < lines → s.x < width → ∃ t, exec .pixWrite s = .next t ∧ t = { s with fb := t.fb }
      ∧ ∀ a, lookupCell a t.fb = if a = 160 * s.ly + s.x then some s.pix.out else lookupCell a s.fb)
    ∧ (¬ (s.ly < lines ∧ s.x < width) → exec .pixWrite s = .fault (.outOfSpace .fb (160 * s.ly + s.x)))

/-- R286, R287: PIXEL writes the one pixel that FETCH (R240, R248 to R251), OBJ_PICK, the priority table and the store
give, and moves on; the cursor is the one rolled on to this column (R253, R254; log 23), which CursorAgreesWithFetch
speaks of; no transient survives (log 10), and nothing else changes. The buffer's lock is not looked at (log 27). Disabled
layers, the window and overlapping objects show what the spec's decisions D13, D15, D16 and D18 say (log 20). -/
def Obligations.PixelComposesOneColumn : Prop :=
  ∀ (s : State) (v : Views), s.views = some v → s.ly < lines → s.x < width →
    ∃ t, exec .pixel s = .next t ∧ s.rollCursor = .ok t.cursor
      ∧ t = { s with
          fb := t.fb, cursor := t.cursor, pix := .clear, x := s.x + 1,
          phase := if s.x + 1 = 160 then .lineEnd else .pixel }
      ∧ ∀ a, lookupCell a t.fb =
          if a = 160 * s.ly + s.x then some (columnPixel s (fetchAt s v) (pickCandidate s.x s.cands)) else lookupCell a s.fb

/-! ### The border -/

/-- R340 to R343, R351: the whole border buffer is painted, each pixel as its tile, flips, four bit planes and palette say,
between its lock and unlock, or nothing is done. The format is open (D34, log 19). That a lock which succeeds is always
followed by the painting, and that a backend without border rendering shows itself as a lock that fails, its call
recorded, is the model's choice (log 29); the record of calls is log 11. -/
def Obligations.BorderRenderPaintsAllOrNothing : Prop :=
  ∀ s : State,
    (s.borderIn.lock.isSome → ∃ t, exec .borderRender s = .next t
      ∧ t = { s with border := t.border, signals := s.signals ++ [.lockBorder, .unlockBorder], phase := .idle }
      ∧ (∀ a, (lookupCell a t.border).isSome ↔ a < 224 * 256)
      ∧ ∀ y x, y < 224 → x < 256 → lookupCell (256 * y + x) t.border = some (borderAt s y x))
    ∧ (s.borderIn.lock = none → exec .borderRender s = .next { s with
        signals := s.signals ++ [.lockBorder], phase := .idle })

/-- R344: BORDER_RENDER's painting depends on nothing of the core, and no operation of the frame changes the border. -/
def Obligations.BorderIsIndependentOfTheCore : Prop :=
  (∀ s t : State, ∀ s', s.cfg = t.cfg → s.borderIn = t.borderIn → s.border = t.border →
      exec .borderRender s = .next s' → ∃ t', exec .borderRender t = .next t' ∧ s'.border = t'.border)
    ∧ ∀ (i : Instr) (s t : State), i ≠ .borderRender → exec i s = .next t → t.border = s.border

/-! ### Rules of the whole machine -/

/-- Every step keeps the invariant: memories canonical (R70), the position in its ranges and `clk = 456 * ly` (R30, R32),
at most ten candidates (R212), `inProgress` exactly while a frame operation runs (R37, R313), the buffer locked exactly while
it is drawn (R310), the replay exact on every line, the latches and
PALRAM in force being the snapshot's with the due events folded over them (R90, R163), the calls in their order (R356). -/
def Obligations.EveryStepKeepsInvariant : Prop :=
  ∀ s t : State, s.Inv → step s = .next t → t.Inv

/-- R350, R86, R151: no data value stops the machine: from every state of the invariant a step answers a next state. -/
def Obligations.InvariantStepAnswersNext : Prop :=
  ∀ s : State, s.Inv → ∃ t, step s = .next t

/-- R300, R319: every operation runs to completion: from every state of the invariant the engine is idle again within
`rank` steps, and that is at most 28815. -/
def Obligations.EveryOperationEndsInIdle : Prop :=
  ∀ s : State, s.Inv → s.rank ≤ 28815 ∧ ∃ n t, n ≤ s.rank ∧ Sys2Proof.core.run n s = .next t ∧ t.phase = .idle

/-- R319: every step goes to the successor that the transfer table names under the condition that holds. -/
def Obligations.StepsFollowTransferTable : Prop :=
  ∀ s t : State, s.Inv → step s = .next t → Transfer s t

/-- R26: a latch changes only at FRAME_LOAD and LINE_START. R27: window Y keeps its snapshot value for the whole frame. -/
def Obligations.LatchesChangeOnlyAtLoadAndLineStart : Prop :=
  (∀ s t : State, s.issue = none → step s = .next t → s.phase ≠ .frameLoad → s.phase ≠ .lineStart → t.regs = s.regs)
    ∧ ∀ (i : Instr) (s t : State), i ≠ .frameLoad → exec i s = .next t → t.regs.wy = s.regs.wy

/-- R71, R73, R74, R92: no operation writes VRAM or OAM, and only palette-byte events write PALRAM: whatever is performed,
a view that stays bound keeps VRAM and OAM, unless a new snapshot is bound. -/
def Obligations.VideoMemoryAndOamAreConstant : Prop :=
  ∀ (i : Instr) (s t : State) (v w : Views), i ≠ .frameLoad → exec i s = .next t →
    s.views = some v → t.views = some w →
    w.vram0 = v.vram0 ∧ w.vram1 = v.vram1 ∧ w.oam = v.oam
      ∧ (i ≠ .lineStart → (∀ c o d, i ≠ .evPalbyte c o d) → w.palram = v.palram)

/-- R360: no operation changes the configuration. -/
def Obligations.ConfigurationNeverChanges : Prop :=
  ∀ (i : Instr) (s t : State), exec i s = .next t → t.cfg = s.cfg

/-- R310, R320: the output buffer changes only while it is locked. -/
def Obligations.BufferChangesOnlyWhileLocked : Prop :=
  ∀ s t : State, s.Inv → step s = .next t → t.fb ≠ s.fb → s.locked.isSome

/-- R305: a Frozen frame leaves the buffer, the latches and the store as they are from MASK_DISPATCH to its end, and the
views, PALRAM among them, until FRAME_END discards them (R312). -/
def Obligations.FrozenFrameDrawsNothing : Prop :=
  ∀ (s : State) (inp : FrameInput), s.issue = none → s.phase = .maskDispatch → s.input = some inp →
    inp.maskSel.toNat / 2 ^ 15 = 1 →
    (∃ u, Sys2Proof.core.run 2 s = .next u ∧ u.phase = .frameEnd
      ∧ u.fb = s.fb ∧ u.regs = s.regs ∧ u.bgpal = s.bgpal ∧ u.objpal = s.objpal ∧ u.views = s.views)
    ∧ ∃ t, Sys2Proof.core.run 3 s = .next t ∧ t.phase = .idle
      ∧ t.fb = s.fb ∧ t.regs = s.regs ∧ t.bgpal = s.bgpal ∧ t.objpal = s.objpal
      ∧ t.signals = s.signals ++ [.render, .afterFrame]

/-- R285, R318: every pixel of the part of a frame already drawn has a value, through every step; so at PRESENT of a frame
that draws, all 144 by 160 have. -/
def Obligations.DrawnPixelsAreWritten : Prop :=
  (∀ s t : State, s.Inv → Painted s → step s = .next t → Painted t)
    ∧ ∀ s : State, s.phase = .present → s.mask ≠ .frozen → Painted s →
        ∀ ly x, ly < lines → x < width → (s.fbPixel ly x).isSome

/-- R356, R311, R318: the calls of a completed frame operation, each exactly once and in their order. -/
def Obligations.CompletedFrameCallsInOrder : Prop :=
  ∀ s t : State, s.Inv → s.phase = .frameEnd → step s = .next t →
    t.phase = .idle ∧ t.inProgress = false ∧ t.input = none
      ∧ t.signals = if s.mask = .frozen then [.beforeFrame, .render, .afterFrame]
        else [.beforeFrame, .lockBuffer, .unlockBuffer, .render, .afterFrame]

/-- R6, R40 (log 3): every pixel the engine holds has `PIXW` bits, through every step from any state. -/
def Obligations.PixelsKeepTheirWidth : Prop :=
  (∀ cfg : Config, PixelsFit (State.resetOf cfg))
    ∧ ∀ s t : State, PixelsFit s → step s = .next t → PixelsFit t

/-- R50, R185, R382: two engines that begin to draw the same input are alike after PAL_RELOAD, whatever each did before. -/
def Obligations.FrameLoadForgetsThePast : Prop :=
  ∀ s t : State, s.Inv → t.Inv → s.phase = .frameLoad → t.phase = .frameLoad → s.cfg = t.cfg → s.input = t.input →
    ∃ s' t', Sys2Proof.core.run 2 s = .next s' ∧ Sys2Proof.core.run 2 t = .next t' ∧ Alike s' t'

/-- R287, R382: states that are alike stay alike through every step of the line loop, and draw the same pixels. -/
def Obligations.AlikeStatesDrawTheSameFrame : Prop :=
  (∀ s t s' : State, s.Inv → t.Inv → Alike s t → normalPhase s.phase = true → step s = .next s' →
      ∃ t', step t = .next t' ∧ Alike s' t')
    ∧ ∀ s t : State, s.phase = .bufUnlock → Alike s t → ∀ ly x, ly < lines → x < width →
        s.fbPixel ly x = t.fbPixel ly x

/-- R183, R184, R6 with the spec's decisions D8, D9, D26 (log 20) and the form of log 2: what the colour tables hold. In
every configuration an entry listed for an index is read, the first one counting, and an index not listed has the default
of R183; the ramps, BLACK and WHITE are the configured ones. In a default configuration the ramps, BLACK and WHITE are
those of R184 and R6, and BLACK and WHITE are the first and the last entry of COLOR_LUT. -/
def Obligations.ColorTablesHoldTheirContents : Prop :=
  (∀ (cfg : Config) (raw : BitVec 15) (b : Nat) (p : Pixel) (rest : List (Nat × Pixel)),
      (colorLut { cfg with lut := [] } raw).toNat = lutDefault cfg.format raw.toNat
      ∧ colorLut { cfg with lut := (b, p) :: rest } raw =
          if b = raw.toNat then inWidth cfg.format p else colorLut { cfg with lut := rest } raw)
    ∧ (∀ cfg : Config, blackPixel cfg = inWidth cfg.format cfg.black ∧ whitePixel cfg = inWidth cfg.format cfg.white
      ∧ ∀ j : BitVec 2,
        monoRamp cfg .bg j = inWidth cfg.format (cfg.ramp.toList.getD j.toNat 0)
        ∧ monoRamp cfg .obj0 j = inWidth cfg.format (cfg.ramp.toList.getD (4 + j.toNat) 0)
        ∧ monoRamp cfg .obj1 j = inWidth cfg.format (cfg.ramp.toList.getD (8 + j.toNat) 0))
    ∧ ∀ (m : HwMode) (f : PixelFormat) (bias : Int),
      let d := Config.default m f bias
      d.lut = [] ∧ (∀ t j, monoRamp d t j = rampDefault f j)
        ∧ blackPixel d = (match f with | .pf32 => 0xFF000000 | .pf16 => 0x0000)
        ∧ whitePixel d = (match f with | .pf32 => 0xFFFFFFFF | .pf16 => 0xFFFF)
        ∧ blackPixel d = colorLut d 0 ∧ whitePixel d = colorLut d 0x7FFF
end

