-- ==== Sys2Proof/Laws/Memory.lean ====
section
/-! SUPPORT. The laws of the sparse lists: a read after a write, that every operation keeps the canonical form, and what
painting a buffer leaves. -/

namespace Sys2Proof.Machine

variable {α : Type}

theorem lookupCell_insertCell (a b : Nat) (v : α) (m : List (Nat × α)) :
    lookupCell a (insertCell b v m) = if a = b then some v else lookupCell a m := by
  induction m with
  | nil => simp [insertCell, lookupCell]
  | cons c m ih =>
    obtain ⟨k, w⟩ := c
    simp only [insertCell]
    split
    · simp only [lookupCell]
    · split
      · next h => subst h; simp only [lookupCell]; split <;> rfl
      · simp only [lookupCell, ih]
        split <;> split <;> simp_all

theorem lookupCell_eraseCell (a b : Nat) (m : List (Nat × α)) :
    lookupCell a (eraseCell b m) = if a = b then none else lookupCell a m := by
  induction m with
  | nil => simp [eraseCell, lookupCell]
  | cons c m ih =>
    obtain ⟨k, w⟩ := c
    simp only [eraseCell]
    split
    · next h => subst h; rw [ih]; simp only [lookupCell]; split <;> simp_all
    · simp only [lookupCell, ih]
      split <;> split <;> simp_all

theorem risingBelow_mono {size low low' : Nat} {m : List (Nat × α)} (h : low' ≤ low)
    (hm : risingBelow size low m = true) : risingBelow size low' m = true := by
  cases m with
  | nil => rfl
  | cons c m =>
    simp only [risingBelow, Bool.and_eq_true, decide_eq_true_eq] at hm ⊢
    exact ⟨⟨by omega, hm.1.2⟩, hm.2⟩

theorem risingBelow_insertCell {size low a : Nat} {v : α} {m : List (Nat × α)} (hl : low ≤ a) (ha : a < size)
    (hm : risingBelow size low m = true) : risingBelow size low (insertCell a v m) = true := by
  induction m generalizing low with
  | nil => simp [insertCell, risingBelow, hl, ha]
  | cons c m ih =>
    obtain ⟨k, w⟩ := c
    simp only [risingBelow, Bool.and_eq_true, decide_eq_true_eq] at hm
    simp only [insertCell]
    split
    · next h => simp only [risingBelow, Bool.and_eq_true, decide_eq_true_eq]; exact ⟨⟨hl, ha⟩, ⟨by omega, hm.1.2⟩, hm.2⟩
    · split
      · next h => subst h; simp only [risingBelow, Bool.and_eq_true, decide_eq_true_eq]; exact hm
      · simp only [risingBelow, Bool.and_eq_true, decide_eq_true_eq]
        exact ⟨hm.1, ih (by omega) hm.2⟩

theorem risingBelow_eraseCell {size low a : Nat} {m : List (Nat × α)} (hm : risingBelow size low m = true) :
    risingBelow size low (eraseCell a m) = true := by
  induction m generalizing low with
  | nil => rfl
  | cons c m ih =>
    obtain ⟨k, w⟩ := c
    simp only [risingBelow, Bool.and_eq_true, decide_eq_true_eq] at hm
    simp only [eraseCell]
    split
    · exact ih (risingBelow_mono (by omega) hm.2)
    · simp only [risingBelow, Bool.and_eq_true, decide_eq_true_eq]
      exact ⟨hm.1, ih hm.2⟩

theorem mem_insertCell {a : Nat} {v : α} {m : List (Nat × α)} {c : Nat × α} (h : c ∈ insertCell a v m) :
    c = (a, v) ∨ c ∈ m := by
  induction m with
  | nil => simpa [insertCell] using h
  | cons d m ih =>
    obtain ⟨k, w⟩ := d
    simp only [insertCell] at h
    split at h
    · simpa using h
    · split at h
      · rcases List.mem_cons.1 h with h | h
        · exact .inl h
        · exact .inr (List.mem_cons_of_mem _ h)
      · rcases List.mem_cons.1 h with h | h
        · exact .inr (h ▸ List.mem_cons_self)
        · rcases ih h with h | h
          · exact .inl h
          · exact .inr (List.mem_cons_of_mem _ h)

theorem mem_eraseCell {a : Nat} {m : List (Nat × α)} {c : Nat × α} (h : c ∈ eraseCell a m) : c ∈ m := by
  induction m with
  | nil => simp [eraseCell] at h
  | cons d m ih =>
    obtain ⟨k, w⟩ := d
    simp only [eraseCell] at h
    split at h
    · exact List.mem_cons_of_mem _ (ih h)
    · rcases List.mem_cons.1 h with h | h
      · exact h ▸ List.mem_cons_self
      · exact List.mem_cons_of_mem _ (ih h)

/-- A read after a store to a view: the byte stored at its own offset, the old byte elsewhere. -/
theorem memGet_memSet (a b : Nat) (v : Byte) (m : List Host.Cell) :
    memGet (memSet b v m) a = if a = b then v else memGet m a := by
  unfold memGet memSet
  split
  · next h => rw [lookupCell_eraseCell]; split <;> simp_all
  · rw [lookupCell_insertCell]; split <;> simp_all

/-- A store inside a view keeps its canonical form. -/
theorem memSet_wf {size a : Nat} {v : Byte} {m : List Host.Cell} (ha : a < size) (hm : Memory.wf size m = true) :
    Memory.wf size (memSet a v m) = true := by
  simp only [Memory.wf, Bool.and_eq_true, List.all_eq_true, decide_eq_true_eq] at hm ⊢
  unfold memSet
  split
  · exact ⟨risingBelow_eraseCell hm.1, fun c hc => hm.2 c (mem_eraseCell hc)⟩
  · next hv =>
    refine ⟨risingBelow_insertCell (Nat.zero_le _) ha hm.1, fun c hc => ?_⟩
    rcases mem_insertCell hc with h | h
    · subst h; exact hv
    · exact hm.2 c h

/-- Writing a pixel inside a buffer keeps its canonical form. -/
theorem insertCell_bufferWf {size a : Nat} {p : Pixel} {b : List (Nat × Pixel)} (ha : a < size)
    (hb : bufferWf size b = true) : bufferWf size (insertCell a p b) = true :=
  risingBelow_insertCell (Nat.zero_le _) ha hb

theorem lookupCell_map_range' (a low n : Nat) (f : Nat → α) :
    lookupCell a ((List.range' low n).map fun k => (k, f k)) = if low ≤ a ∧ a < low + n then some (f a) else none := by
  induction n generalizing low with
  | zero => simp only [List.range'_zero, List.map_nil, lookupCell]; rw [if_neg (by omega)]
  | succ n ih =>
    rw [List.range'_succ, List.map_cons]
    simp only [lookupCell, ih]
    by_cases h : a = low
    · subst h; simp
    · rw [if_neg h]
      by_cases h2 : low ≤ a ∧ a < low + (n + 1)
      · rw [if_pos h2, if_pos (by omega)]
      · rw [if_neg h2, if_neg (by omega)]

/-- Painting gives every pixel of the buffer its colour, and lists nothing else. -/
theorem lookupCell_paint (a n : Nat) (f : Nat → Pixel) :
    lookupCell a (paint n f) = if a < n then some (f a) else none := by
  unfold paint
  rw [List.range_eq_range', lookupCell_map_range']
  simp

theorem risingBelow_map_range' {size low n : Nat} (f : Nat → α) (h : low + n ≤ size) :
    risingBelow size low ((List.range' low n).map fun k => (k, f k)) = true := by
  induction n generalizing low with
  | zero => rfl
  | succ n ih =>
    rw [List.range'_succ, List.map_cons]
    simp only [risingBelow, Bool.and_eq_true, decide_eq_true_eq]
    exact ⟨⟨Nat.le_refl _, by omega⟩, ih (by omega)⟩

/-- A painted buffer is in canonical form. -/
theorem paint_wf (n : Nat) (f : Nat → Pixel) : bufferWf n (paint n f) = true := by
  unfold paint bufferWf
  rw [List.range_eq_range']
  exact risingBelow_map_range' f (by omega)

end Sys2Proof.Machine
end

