-- ==== Sys2Proof/Laws/State.lean ====
section
/-! SUPPORT. What each named update of the state leaves of each field: one lemma per field per update. -/

namespace Sys2Proof.Machine

variable (s : State)

/-! ### `State.setRegs` -/

@[simp] theorem State.setRegs_cfg (f : Regs → Regs) : (s.setRegs f).cfg = s.cfg := rfl
@[simp] theorem State.setRegs_regs (f : Regs → Regs) : (s.setRegs f).regs = f s.regs := rfl
@[simp] theorem State.setRegs_phase (f : Regs → Regs) : (s.setRegs f).phase = s.phase := rfl
@[simp] theorem State.setRegs_ly (f : Regs → Regs) : (s.setRegs f).ly = s.ly := rfl
@[simp] theorem State.setRegs_x (f : Regs → Regs) : (s.setRegs f).x = s.x := rfl
@[simp] theorem State.setRegs_clk (f : Regs → Regs) : (s.setRegs f).clk = s.clk := rfl
@[simp] theorem State.setRegs_rp (f : Regs → Regs) : (s.setRegs f).rp = s.rp := rfl
@[simp] theorem State.setRegs_pp (f : Regs → Regs) : (s.setRegs f).pp = s.pp := rfl
@[simp] theorem State.setRegs_inProgress (f : Regs → Regs) : (s.setRegs f).inProgress = s.inProgress := rfl
@[simp] theorem State.setRegs_attached (f : Regs → Regs) : (s.setRegs f).attached = s.attached := rfl
@[simp] theorem State.setRegs_mask (f : Regs → Regs) : (s.setRegs f).mask = s.mask := rfl
@[simp] theorem State.setRegs_bgpal (f : Regs → Regs) : (s.setRegs f).bgpal = s.bgpal := rfl
@[simp] theorem State.setRegs_objpal (f : Regs → Regs) : (s.setRegs f).objpal = s.objpal := rfl
@[simp] theorem State.setRegs_cands (f : Regs → Regs) : (s.setRegs f).cands = s.cands := rfl
@[simp] theorem State.setRegs_cursor (f : Regs → Regs) : (s.setRegs f).cursor = s.cursor := rfl
@[simp] theorem State.setRegs_pix (f : Regs → Regs) : (s.setRegs f).pix = s.pix := rfl
@[simp] theorem State.setRegs_colorArg (f : Regs → Regs) : (s.setRegs f).colorArg = s.colorArg := rfl
@[simp] theorem State.setRegs_monoArg (f : Regs → Regs) : (s.setRegs f).monoArg = s.monoArg := rfl
@[simp] theorem State.setRegs_views (f : Regs → Regs) : (s.setRegs f).views = s.views := rfl
@[simp] theorem State.setRegs_fb (f : Regs → Regs) : (s.setRegs f).fb = s.fb := rfl
@[simp] theorem State.setRegs_border (f : Regs → Regs) : (s.setRegs f).border = s.border := rfl
@[simp] theorem State.setRegs_locked (f : Regs → Regs) : (s.setRegs f).locked = s.locked := rfl
@[simp] theorem State.setRegs_input (f : Regs → Regs) : (s.setRegs f).input = s.input := rfl
@[simp] theorem State.setRegs_borderIn (f : Regs → Regs) : (s.setRegs f).borderIn = s.borderIn := rfl
@[simp] theorem State.setRegs_requests (f : Regs → Regs) : (s.setRegs f).requests = s.requests := rfl
@[simp] theorem State.setRegs_signals (f : Regs → Regs) : (s.setRegs f).signals = s.signals := rfl
@[simp] theorem State.setRegs_report (f : Regs → Regs) : (s.setRegs f).report = s.report := rfl
@[simp] theorem State.setRegs_issue (f : Regs → Regs) : (s.setRegs f).issue = s.issue := rfl
@[simp] theorem State.setRegs_free (f : Regs → Regs) : (s.setRegs f).free = s.free := rfl

/-! ### `State.setPhase` -/

@[simp] theorem State.setPhase_cfg (p : Phase) : (s.setPhase p).cfg = s.cfg := rfl
@[simp] theorem State.setPhase_regs (p : Phase) : (s.setPhase p).regs = s.regs := rfl
@[simp] theorem State.setPhase_phase (p : Phase) : (s.setPhase p).phase = p := rfl
@[simp] theorem State.setPhase_ly (p : Phase) : (s.setPhase p).ly = s.ly := rfl
@[simp] theorem State.setPhase_x (p : Phase) : (s.setPhase p).x = s.x := rfl
@[simp] theorem State.setPhase_clk (p : Phase) : (s.setPhase p).clk = s.clk := rfl
@[simp] theorem State.setPhase_rp (p : Phase) : (s.setPhase p).rp = s.rp := rfl
@[simp] theorem State.setPhase_pp (p : Phase) : (s.setPhase p).pp = s.pp := rfl
@[simp] theorem State.setPhase_inProgress (p : Phase) : (s.setPhase p).inProgress = s.inProgress := rfl
@[simp] theorem State.setPhase_attached (p : Phase) : (s.setPhase p).attached = s.attached := rfl
@[simp] theorem State.setPhase_mask (p : Phase) : (s.setPhase p).mask = s.mask := rfl
@[simp] theorem State.setPhase_bgpal (p : Phase) : (s.setPhase p).bgpal = s.bgpal := rfl
@[simp] theorem State.setPhase_objpal (p : Phase) : (s.setPhase p).objpal = s.objpal := rfl
@[simp] theorem State.setPhase_cands (p : Phase) : (s.setPhase p).cands = s.cands := rfl
@[simp] theorem State.setPhase_cursor (p : Phase) : (s.setPhase p).cursor = s.cursor := rfl
@[simp] theorem State.setPhase_pix (p : Phase) : (s.setPhase p).pix = s.pix := rfl
@[simp] theorem State.setPhase_colorArg (p : Phase) : (s.setPhase p).colorArg = s.colorArg := rfl
@[simp] theorem State.setPhase_monoArg (p : Phase) : (s.setPhase p).monoArg = s.monoArg := rfl
@[simp] theorem State.setPhase_views (p : Phase) : (s.setPhase p).views = s.views := rfl
@[simp] theorem State.setPhase_fb (p : Phase) : (s.setPhase p).fb = s.fb := rfl
@[simp] theorem State.setPhase_border (p : Phase) : (s.setPhase p).border = s.border := rfl
@[simp] theorem State.setPhase_locked (p : Phase) : (s.setPhase p).locked = s.locked := rfl
@[simp] theorem State.setPhase_input (p : Phase) : (s.setPhase p).input = s.input := rfl
@[simp] theorem State.setPhase_borderIn (p : Phase) : (s.setPhase p).borderIn = s.borderIn := rfl
@[simp] theorem State.setPhase_requests (p : Phase) : (s.setPhase p).requests = s.requests := rfl
@[simp] theorem State.setPhase_signals (p : Phase) : (s.setPhase p).signals = s.signals := rfl
@[simp] theorem State.setPhase_report (p : Phase) : (s.setPhase p).report = s.report := rfl
@[simp] theorem State.setPhase_issue (p : Phase) : (s.setPhase p).issue = s.issue := rfl
@[simp] theorem State.setPhase_free (p : Phase) : (s.setPhase p).free = s.free := rfl

/-! ### `State.emit` -/

@[simp] theorem State.emit_cfg (g : Signal) : (s.emit g).cfg = s.cfg := rfl
@[simp] theorem State.emit_regs (g : Signal) : (s.emit g).regs = s.regs := rfl
@[simp] theorem State.emit_phase (g : Signal) : (s.emit g).phase = s.phase := rfl
@[simp] theorem State.emit_ly (g : Signal) : (s.emit g).ly = s.ly := rfl
@[simp] theorem State.emit_x (g : Signal) : (s.emit g).x = s.x := rfl
@[simp] theorem State.emit_clk (g : Signal) : (s.emit g).clk = s.clk := rfl
@[simp] theorem State.emit_rp (g : Signal) : (s.emit g).rp = s.rp := rfl
@[simp] theorem State.emit_pp (g : Signal) : (s.emit g).pp = s.pp := rfl
@[simp] theorem State.emit_inProgress (g : Signal) : (s.emit g).inProgress = s.inProgress := rfl
@[simp] theorem State.emit_attached (g : Signal) : (s.emit g).attached = s.attached := rfl
@[simp] theorem State.emit_mask (g : Signal) : (s.emit g).mask = s.mask := rfl
@[simp] theorem State.emit_bgpal (g : Signal) : (s.emit g).bgpal = s.bgpal := rfl
@[simp] theorem State.emit_objpal (g : Signal) : (s.emit g).objpal = s.objpal := rfl
@[simp] theorem State.emit_cands (g : Signal) : (s.emit g).cands = s.cands := rfl
@[simp] theorem State.emit_cursor (g : Signal) : (s.emit g).cursor = s.cursor := rfl
@[simp] theorem State.emit_pix (g : Signal) : (s.emit g).pix = s.pix := rfl
@[simp] theorem State.emit_colorArg (g : Signal) : (s.emit g).colorArg = s.colorArg := rfl
@[simp] theorem State.emit_monoArg (g : Signal) : (s.emit g).monoArg = s.monoArg := rfl
@[simp] theorem State.emit_views (g : Signal) : (s.emit g).views = s.views := rfl
@[simp] theorem State.emit_fb (g : Signal) : (s.emit g).fb = s.fb := rfl
@[simp] theorem State.emit_border (g : Signal) : (s.emit g).border = s.border := rfl
@[simp] theorem State.emit_locked (g : Signal) : (s.emit g).locked = s.locked := rfl
@[simp] theorem State.emit_input (g : Signal) : (s.emit g).input = s.input := rfl
@[simp] theorem State.emit_borderIn (g : Signal) : (s.emit g).borderIn = s.borderIn := rfl
@[simp] theorem State.emit_requests (g : Signal) : (s.emit g).requests = s.requests := rfl
@[simp] theorem State.emit_signals (g : Signal) : (s.emit g).signals = s.signals ++ [g] := rfl
@[simp] theorem State.emit_report (g : Signal) : (s.emit g).report = s.report := rfl
@[simp] theorem State.emit_issue (g : Signal) : (s.emit g).issue = s.issue := rfl
@[simp] theorem State.emit_free (g : Signal) : (s.emit g).free = s.free := rfl

/-! ### `State.fetched` -/

@[simp] theorem State.fetched_cfg : (s.fetched).cfg = s.cfg := rfl
@[simp] theorem State.fetched_regs : (s.fetched).regs = s.regs := rfl
@[simp] theorem State.fetched_phase : (s.fetched).phase = s.phase := rfl
@[simp] theorem State.fetched_ly : (s.fetched).ly = s.ly := rfl
@[simp] theorem State.fetched_x : (s.fetched).x = s.x := rfl
@[simp] theorem State.fetched_clk : (s.fetched).clk = s.clk := rfl
@[simp] theorem State.fetched_rp : (s.fetched).rp = s.rp := rfl
@[simp] theorem State.fetched_pp : (s.fetched).pp = s.pp := rfl
@[simp] theorem State.fetched_inProgress : (s.fetched).inProgress = s.inProgress := rfl
@[simp] theorem State.fetched_attached : (s.fetched).attached = s.attached := rfl
@[simp] theorem State.fetched_mask : (s.fetched).mask = s.mask := rfl
@[simp] theorem State.fetched_bgpal : (s.fetched).bgpal = s.bgpal := rfl
@[simp] theorem State.fetched_objpal : (s.fetched).objpal = s.objpal := rfl
@[simp] theorem State.fetched_cands : (s.fetched).cands = s.cands := rfl
@[simp] theorem State.fetched_cursor : (s.fetched).cursor = s.cursor := rfl
@[simp] theorem State.fetched_pix : (s.fetched).pix = s.pix := rfl
@[simp] theorem State.fetched_colorArg : (s.fetched).colorArg = s.colorArg := rfl
@[simp] theorem State.fetched_monoArg : (s.fetched).monoArg = s.monoArg := rfl
@[simp] theorem State.fetched_views : (s.fetched).views = s.views := rfl
@[simp] theorem State.fetched_fb : (s.fetched).fb = s.fb := rfl
@[simp] theorem State.fetched_border : (s.fetched).border = s.border := rfl
@[simp] theorem State.fetched_locked : (s.fetched).locked = s.locked := rfl
@[simp] theorem State.fetched_input : (s.fetched).input = s.input := rfl
@[simp] theorem State.fetched_borderIn : (s.fetched).borderIn = s.borderIn := rfl
@[simp] theorem State.fetched_requests : (s.fetched).requests = s.requests := rfl
@[simp] theorem State.fetched_signals : (s.fetched).signals = s.signals := rfl
@[simp] theorem State.fetched_report : (s.fetched).report = s.report := rfl
@[simp] theorem State.fetched_issue : (s.fetched).issue = none := rfl
@[simp] theorem State.fetched_free : (s.fetched).free = s.free := rfl

/-! ### `State.setBgPixel` -/

@[simp] theorem State.setBgPixel_cfg (o : BgPixel) : (s.setBgPixel o).cfg = s.cfg := rfl
@[simp] theorem State.setBgPixel_regs (o : BgPixel) : (s.setBgPixel o).regs = s.regs := rfl
@[simp] theorem State.setBgPixel_phase (o : BgPixel) : (s.setBgPixel o).phase = s.phase := rfl
@[simp] theorem State.setBgPixel_ly (o : BgPixel) : (s.setBgPixel o).ly = s.ly := rfl
@[simp] theorem State.setBgPixel_x (o : BgPixel) : (s.setBgPixel o).x = s.x := rfl
@[simp] theorem State.setBgPixel_clk (o : BgPixel) : (s.setBgPixel o).clk = s.clk := rfl
@[simp] theorem State.setBgPixel_rp (o : BgPixel) : (s.setBgPixel o).rp = s.rp := rfl
@[simp] theorem State.setBgPixel_pp (o : BgPixel) : (s.setBgPixel o).pp = s.pp := rfl
@[simp] theorem State.setBgPixel_inProgress (o : BgPixel) : (s.setBgPixel o).inProgress = s.inProgress := rfl
@[simp] theorem State.setBgPixel_attached (o : BgPixel) : (s.setBgPixel o).attached = s.attached := rfl
@[simp] theorem State.setBgPixel_mask (o : BgPixel) : (s.setBgPixel o).mask = s.mask := rfl
@[simp] theorem State.setBgPixel_bgpal (o : BgPixel) : (s.setBgPixel o).bgpal = s.bgpal := rfl
@[simp] theorem State.setBgPixel_objpal (o : BgPixel) : (s.setBgPixel o).objpal = s.objpal := rfl
@[simp] theorem State.setBgPixel_cands (o : BgPixel) : (s.setBgPixel o).cands = s.cands := rfl
@[simp] theorem State.setBgPixel_cursor (o : BgPixel) : (s.setBgPixel o).cursor = s.cursor := rfl
@[simp] theorem State.setBgPixel_pix (o : BgPixel) : (s.setBgPixel o).pix = { s.pix with
      bgIdx := o.idx, bgPal := o.pal, bgOn := o.on, bgZero := bgZeroOf o.idx, tilePrio := o.prio } := rfl
@[simp] theorem State.setBgPixel_colorArg (o : BgPixel) : (s.setBgPixel o).colorArg = s.colorArg := rfl
@[simp] theorem State.setBgPixel_monoArg (o : BgPixel) : (s.setBgPixel o).monoArg = s.monoArg := rfl
@[simp] theorem State.setBgPixel_views (o : BgPixel) : (s.setBgPixel o).views = s.views := rfl
@[simp] theorem State.setBgPixel_fb (o : BgPixel) : (s.setBgPixel o).fb = s.fb := rfl
@[simp] theorem State.setBgPixel_border (o : BgPixel) : (s.setBgPixel o).border = s.border := rfl
@[simp] theorem State.setBgPixel_locked (o : BgPixel) : (s.setBgPixel o).locked = s.locked := rfl
@[simp] theorem State.setBgPixel_input (o : BgPixel) : (s.setBgPixel o).input = s.input := rfl
@[simp] theorem State.setBgPixel_borderIn (o : BgPixel) : (s.setBgPixel o).borderIn = s.borderIn := rfl
@[simp] theorem State.setBgPixel_requests (o : BgPixel) : (s.setBgPixel o).requests = s.requests := rfl
@[simp] theorem State.setBgPixel_signals (o : BgPixel) : (s.setBgPixel o).signals = s.signals := rfl
@[simp] theorem State.setBgPixel_report (o : BgPixel) : (s.setBgPixel o).report = s.report := rfl
@[simp] theorem State.setBgPixel_issue (o : BgPixel) : (s.setBgPixel o).issue = s.issue := rfl
@[simp] theorem State.setBgPixel_free (o : BgPixel) : (s.setBgPixel o).free = s.free := rfl

/-! ### `State.prioMux` -/

@[simp] theorem State.prioMux_cfg : (s.prioMux).cfg = s.cfg := rfl
@[simp] theorem State.prioMux_regs : (s.prioMux).regs = s.regs := rfl
@[simp] theorem State.prioMux_phase : (s.prioMux).phase = s.phase := rfl
@[simp] theorem State.prioMux_ly : (s.prioMux).ly = s.ly := rfl
@[simp] theorem State.prioMux_x : (s.prioMux).x = s.x := rfl
@[simp] theorem State.prioMux_clk : (s.prioMux).clk = s.clk := rfl
@[simp] theorem State.prioMux_rp : (s.prioMux).rp = s.rp := rfl
@[simp] theorem State.prioMux_pp : (s.prioMux).pp = s.pp := rfl
@[simp] theorem State.prioMux_inProgress : (s.prioMux).inProgress = s.inProgress := rfl
@[simp] theorem State.prioMux_attached : (s.prioMux).attached = s.attached := rfl
@[simp] theorem State.prioMux_mask : (s.prioMux).mask = s.mask := rfl
@[simp] theorem State.prioMux_bgpal : (s.prioMux).bgpal = s.bgpal := rfl
@[simp] theorem State.prioMux_objpal : (s.prioMux).objpal = s.objpal := rfl
@[simp] theorem State.prioMux_cands : (s.prioMux).cands = s.cands := rfl
@[simp] theorem State.prioMux_cursor : (s.prioMux).cursor = s.cursor := rfl
@[simp] theorem State.prioMux_pix : (s.prioMux).pix = { s.pix with
      sel := prioSelect s.cfg.hwMode s.pix.objOpaque s.pix.objPrio s.pix.bgZero s.pix.tilePrio } := rfl
@[simp] theorem State.prioMux_colorArg : (s.prioMux).colorArg = s.colorArg := rfl
@[simp] theorem State.prioMux_monoArg : (s.prioMux).monoArg = s.monoArg := rfl
@[simp] theorem State.prioMux_views : (s.prioMux).views = s.views := rfl
@[simp] theorem State.prioMux_fb : (s.prioMux).fb = s.fb := rfl
@[simp] theorem State.prioMux_border : (s.prioMux).border = s.border := rfl
@[simp] theorem State.prioMux_locked : (s.prioMux).locked = s.locked := rfl
@[simp] theorem State.prioMux_input : (s.prioMux).input = s.input := rfl
@[simp] theorem State.prioMux_borderIn : (s.prioMux).borderIn = s.borderIn := rfl
@[simp] theorem State.prioMux_requests : (s.prioMux).requests = s.requests := rfl
@[simp] theorem State.prioMux_signals : (s.prioMux).signals = s.signals := rfl
@[simp] theorem State.prioMux_report : (s.prioMux).report = s.report := rfl
@[simp] theorem State.prioMux_issue : (s.prioMux).issue = s.issue := rfl
@[simp] theorem State.prioMux_free : (s.prioMux).free = s.free := rfl

/-! ### `State.palLookup` -/

@[simp] theorem State.palLookup_cfg : (s.palLookup).cfg = s.cfg := rfl
@[simp] theorem State.palLookup_regs : (s.palLookup).regs = s.regs := rfl
@[simp] theorem State.palLookup_phase : (s.palLookup).phase = s.phase := rfl
@[simp] theorem State.palLookup_ly : (s.palLookup).ly = s.ly := rfl
@[simp] theorem State.palLookup_x : (s.palLookup).x = s.x := rfl
@[simp] theorem State.palLookup_clk : (s.palLookup).clk = s.clk := rfl
@[simp] theorem State.palLookup_rp : (s.palLookup).rp = s.rp := rfl
@[simp] theorem State.palLookup_pp : (s.palLookup).pp = s.pp := rfl
@[simp] theorem State.palLookup_inProgress : (s.palLookup).inProgress = s.inProgress := rfl
@[simp] theorem State.palLookup_attached : (s.palLookup).attached = s.attached := rfl
@[simp] theorem State.palLookup_mask : (s.palLookup).mask = s.mask := rfl
@[simp] theorem State.palLookup_bgpal : (s.palLookup).bgpal = s.bgpal := rfl
@[simp] theorem State.palLookup_objpal : (s.palLookup).objpal = s.objpal := rfl
@[simp] theorem State.palLookup_cands : (s.palLookup).cands = s.cands := rfl
@[simp] theorem State.palLookup_cursor : (s.palLookup).cursor = s.cursor := rfl
@[simp] theorem State.palLookup_pix : (s.palLookup).pix = { s.pix with out := s.lookupOut } := rfl
@[simp] theorem State.palLookup_colorArg : (s.palLookup).colorArg = s.colorArg := rfl
@[simp] theorem State.palLookup_monoArg : (s.palLookup).monoArg = s.monoArg := rfl
@[simp] theorem State.palLookup_views : (s.palLookup).views = s.views := rfl
@[simp] theorem State.palLookup_fb : (s.palLookup).fb = s.fb := rfl
@[simp] theorem State.palLookup_border : (s.palLookup).border = s.border := rfl
@[simp] theorem State.palLookup_locked : (s.palLookup).locked = s.locked := rfl
@[simp] theorem State.palLookup_input : (s.palLookup).input = s.input := rfl
@[simp] theorem State.palLookup_borderIn : (s.palLookup).borderIn = s.borderIn := rfl
@[simp] theorem State.palLookup_requests : (s.palLookup).requests = s.requests := rfl
@[simp] theorem State.palLookup_signals : (s.palLookup).signals = s.signals := rfl
@[simp] theorem State.palLookup_report : (s.palLookup).report = s.report := rfl
@[simp] theorem State.palLookup_issue : (s.palLookup).issue = s.issue := rfl
@[simp] theorem State.palLookup_free : (s.palLookup).free = s.free := rfl

/-! ### `State.nextColumn` -/

@[simp] theorem State.nextColumn_cfg (c : Cursor) : (s.nextColumn c).cfg = s.cfg := rfl
@[simp] theorem State.nextColumn_regs (c : Cursor) : (s.nextColumn c).regs = s.regs := rfl
@[simp] theorem State.nextColumn_phase (c : Cursor) : (s.nextColumn c).phase = if s.x + 1 = width then .lineEnd else .pixel := rfl
@[simp] theorem State.nextColumn_ly (c : Cursor) : (s.nextColumn c).ly = s.ly := rfl
@[simp] theorem State.nextColumn_x (c : Cursor) : (s.nextColumn c).x = s.x + 1 := rfl
@[simp] theorem State.nextColumn_clk (c : Cursor) : (s.nextColumn c).clk = s.clk := rfl
@[simp] theorem State.nextColumn_rp (c : Cursor) : (s.nextColumn c).rp = s.rp := rfl
@[simp] theorem State.nextColumn_pp (c : Cursor) : (s.nextColumn c).pp = s.pp := rfl
@[simp] theorem State.nextColumn_inProgress (c : Cursor) : (s.nextColumn c).inProgress = s.inProgress := rfl
@[simp] theorem State.nextColumn_attached (c : Cursor) : (s.nextColumn c).attached = s.attached := rfl
@[simp] theorem State.nextColumn_mask (c : Cursor) : (s.nextColumn c).mask = s.mask := rfl
@[simp] theorem State.nextColumn_bgpal (c : Cursor) : (s.nextColumn c).bgpal = s.bgpal := rfl
@[simp] theorem State.nextColumn_objpal (c : Cursor) : (s.nextColumn c).objpal = s.objpal := rfl
@[simp] theorem State.nextColumn_cands (c : Cursor) : (s.nextColumn c).cands = s.cands := rfl
@[simp] theorem State.nextColumn_cursor (c : Cursor) : (s.nextColumn c).cursor = c := rfl
@[simp] theorem State.nextColumn_pix (c : Cursor) : (s.nextColumn c).pix = .clear := rfl
@[simp] theorem State.nextColumn_colorArg (c : Cursor) : (s.nextColumn c).colorArg = s.colorArg := rfl
@[simp] theorem State.nextColumn_monoArg (c : Cursor) : (s.nextColumn c).monoArg = s.monoArg := rfl
@[simp] theorem State.nextColumn_views (c : Cursor) : (s.nextColumn c).views = s.views := rfl
@[simp] theorem State.nextColumn_fb (c : Cursor) : (s.nextColumn c).fb = s.fb := rfl
@[simp] theorem State.nextColumn_border (c : Cursor) : (s.nextColumn c).border = s.border := rfl
@[simp] theorem State.nextColumn_locked (c : Cursor) : (s.nextColumn c).locked = s.locked := rfl
@[simp] theorem State.nextColumn_input (c : Cursor) : (s.nextColumn c).input = s.input := rfl
@[simp] theorem State.nextColumn_borderIn (c : Cursor) : (s.nextColumn c).borderIn = s.borderIn := rfl
@[simp] theorem State.nextColumn_requests (c : Cursor) : (s.nextColumn c).requests = s.requests := rfl
@[simp] theorem State.nextColumn_signals (c : Cursor) : (s.nextColumn c).signals = s.signals := rfl
@[simp] theorem State.nextColumn_report (c : Cursor) : (s.nextColumn c).report = s.report := rfl
@[simp] theorem State.nextColumn_issue (c : Cursor) : (s.nextColumn c).issue = s.issue := rfl
@[simp] theorem State.nextColumn_free (c : Cursor) : (s.nextColumn c).free = s.free := rfl

/-! ### `State.enterMask` -/

@[simp] theorem State.enterMask_cfg (m : Mask) : (s.enterMask m).cfg = s.cfg := rfl
@[simp] theorem State.enterMask_regs (m : Mask) : (s.enterMask m).regs = s.regs := rfl
@[simp] theorem State.enterMask_phase (m : Mask) : (s.enterMask m).phase = if m = .frozen then .present else .bufLock := rfl
@[simp] theorem State.enterMask_ly (m : Mask) : (s.enterMask m).ly = s.ly := rfl
@[simp] theorem State.enterMask_x (m : Mask) : (s.enterMask m).x = s.x := rfl
@[simp] theorem State.enterMask_clk (m : Mask) : (s.enterMask m).clk = s.clk := rfl
@[simp] theorem State.enterMask_rp (m : Mask) : (s.enterMask m).rp = s.rp := rfl
@[simp] theorem State.enterMask_pp (m : Mask) : (s.enterMask m).pp = s.pp := rfl
@[simp] theorem State.enterMask_inProgress (m : Mask) : (s.enterMask m).inProgress = s.inProgress := rfl
@[simp] theorem State.enterMask_attached (m : Mask) : (s.enterMask m).attached = s.attached := rfl
@[simp] theorem State.enterMask_mask (m : Mask) : (s.enterMask m).mask = m := rfl
@[simp] theorem State.enterMask_bgpal (m : Mask) : (s.enterMask m).bgpal = s.bgpal := rfl
@[simp] theorem State.enterMask_objpal (m : Mask) : (s.enterMask m).objpal = s.objpal := rfl
@[simp] theorem State.enterMask_cands (m : Mask) : (s.enterMask m).cands = s.cands := rfl
@[simp] theorem State.enterMask_cursor (m : Mask) : (s.enterMask m).cursor = s.cursor := rfl
@[simp] theorem State.enterMask_pix (m : Mask) : (s.enterMask m).pix = s.pix := rfl
@[simp] theorem State.enterMask_colorArg (m : Mask) : (s.enterMask m).colorArg = s.colorArg := rfl
@[simp] theorem State.enterMask_monoArg (m : Mask) : (s.enterMask m).monoArg = s.monoArg := rfl
@[simp] theorem State.enterMask_views (m : Mask) : (s.enterMask m).views = s.views := rfl
@[simp] theorem State.enterMask_fb (m : Mask) : (s.enterMask m).fb = s.fb := rfl
@[simp] theorem State.enterMask_border (m : Mask) : (s.enterMask m).border = s.border := rfl
@[simp] theorem State.enterMask_locked (m : Mask) : (s.enterMask m).locked = s.locked := rfl
@[simp] theorem State.enterMask_input (m : Mask) : (s.enterMask m).input = s.input := rfl
@[simp] theorem State.enterMask_borderIn (m : Mask) : (s.enterMask m).borderIn = s.borderIn := rfl
@[simp] theorem State.enterMask_requests (m : Mask) : (s.enterMask m).requests = s.requests := rfl
@[simp] theorem State.enterMask_signals (m : Mask) : (s.enterMask m).signals = s.signals := rfl
@[simp] theorem State.enterMask_report (m : Mask) : (s.enterMask m).report = s.report := rfl
@[simp] theorem State.enterMask_issue (m : Mask) : (s.enterMask m).issue = s.issue := rfl
@[simp] theorem State.enterMask_free (m : Mask) : (s.enterMask m).free = s.free := rfl

/-! ### `State.beginOperation` -/

@[simp] theorem State.beginOperation_cfg (p : Phase) : (s.beginOperation p).cfg = s.cfg := rfl
@[simp] theorem State.beginOperation_regs (p : Phase) : (s.beginOperation p).regs = s.regs := rfl
@[simp] theorem State.beginOperation_phase (p : Phase) : (s.beginOperation p).phase = p := rfl
@[simp] theorem State.beginOperation_ly (p : Phase) : (s.beginOperation p).ly = s.ly := rfl
@[simp] theorem State.beginOperation_x (p : Phase) : (s.beginOperation p).x = s.x := rfl
@[simp] theorem State.beginOperation_clk (p : Phase) : (s.beginOperation p).clk = s.clk := rfl
@[simp] theorem State.beginOperation_rp (p : Phase) : (s.beginOperation p).rp = s.rp := rfl
@[simp] theorem State.beginOperation_pp (p : Phase) : (s.beginOperation p).pp = s.pp := rfl
@[simp] theorem State.beginOperation_inProgress (p : Phase) : (s.beginOperation p).inProgress = s.inProgress := rfl
@[simp] theorem State.beginOperation_attached (p : Phase) : (s.beginOperation p).attached = s.attached := rfl
@[simp] theorem State.beginOperation_mask (p : Phase) : (s.beginOperation p).mask = s.mask := rfl
@[simp] theorem State.beginOperation_bgpal (p : Phase) : (s.beginOperation p).bgpal = s.bgpal := rfl
@[simp] theorem State.beginOperation_objpal (p : Phase) : (s.beginOperation p).objpal = s.objpal := rfl
@[simp] theorem State.beginOperation_cands (p : Phase) : (s.beginOperation p).cands = s.cands := rfl
@[simp] theorem State.beginOperation_cursor (p : Phase) : (s.beginOperation p).cursor = s.cursor := rfl
@[simp] theorem State.beginOperation_pix (p : Phase) : (s.beginOperation p).pix = s.pix := rfl
@[simp] theorem State.beginOperation_colorArg (p : Phase) : (s.beginOperation p).colorArg = s.colorArg := rfl
@[simp] theorem State.beginOperation_monoArg (p : Phase) : (s.beginOperation p).monoArg = s.monoArg := rfl
@[simp] theorem State.beginOperation_views (p : Phase) : (s.beginOperation p).views = s.views := rfl
@[simp] theorem State.beginOperation_fb (p : Phase) : (s.beginOperation p).fb = s.fb := rfl
@[simp] theorem State.beginOperation_border (p : Phase) : (s.beginOperation p).border = s.border := rfl
@[simp] theorem State.beginOperation_locked (p : Phase) : (s.beginOperation p).locked = s.locked := rfl
@[simp] theorem State.beginOperation_input (p : Phase) : (s.beginOperation p).input = s.input := rfl
@[simp] theorem State.beginOperation_borderIn (p : Phase) : (s.beginOperation p).borderIn = s.borderIn := rfl
@[simp] theorem State.beginOperation_requests (p : Phase) : (s.beginOperation p).requests = s.requests := rfl
@[simp] theorem State.beginOperation_signals (p : Phase) : (s.beginOperation p).signals = [] := rfl
@[simp] theorem State.beginOperation_report (p : Phase) : (s.beginOperation p).report = none := rfl
@[simp] theorem State.beginOperation_issue (p : Phase) : (s.beginOperation p).issue = s.issue := rfl
@[simp] theorem State.beginOperation_free (p : Phase) : (s.beginOperation p).free = s.free := rfl

/-! ### `State.fillBuffer` -/

@[simp] theorem State.fillBuffer_cfg (p : Pixel) : (s.fillBuffer p).cfg = s.cfg := rfl
@[simp] theorem State.fillBuffer_regs (p : Pixel) : (s.fillBuffer p).regs = s.regs := rfl
@[simp] theorem State.fillBuffer_phase (p : Pixel) : (s.fillBuffer p).phase = s.phase := rfl
@[simp] theorem State.fillBuffer_ly (p : Pixel) : (s.fillBuffer p).ly = s.ly := rfl
@[simp] theorem State.fillBuffer_x (p : Pixel) : (s.fillBuffer p).x = s.x := rfl
@[simp] theorem State.fillBuffer_clk (p : Pixel) : (s.fillBuffer p).clk = s.clk := rfl
@[simp] theorem State.fillBuffer_rp (p : Pixel) : (s.fillBuffer p).rp = s.rp := rfl
@[simp] theorem State.fillBuffer_pp (p : Pixel) : (s.fillBuffer p).pp = s.pp := rfl
@[simp] theorem State.fillBuffer_inProgress (p : Pixel) : (s.fillBuffer p).inProgress = s.inProgress := rfl
@[simp] theorem State.fillBuffer_attached (p : Pixel) : (s.fillBuffer p).attached = s.attached := rfl
@[simp] theorem State.fillBuffer_mask (p : Pixel) : (s.fillBuffer p).mask = s.mask := rfl
@[simp] theorem State.fillBuffer_bgpal (p : Pixel) : (s.fillBuffer p).bgpal = s.bgpal := rfl
@[simp] theorem State.fillBuffer_objpal (p : Pixel) : (s.fillBuffer p).objpal = s.objpal := rfl
@[simp] theorem State.fillBuffer_cands (p : Pixel) : (s.fillBuffer p).cands = s.cands := rfl
@[simp] theorem State.fillBuffer_cursor (p : Pixel) : (s.fillBuffer p).cursor = s.cursor := rfl
@[simp] theorem State.fillBuffer_pix (p : Pixel) : (s.fillBuffer p).pix = s.pix := rfl
@[simp] theorem State.fillBuffer_colorArg (p : Pixel) : (s.fillBuffer p).colorArg = s.colorArg := rfl
@[simp] theorem State.fillBuffer_monoArg (p : Pixel) : (s.fillBuffer p).monoArg = s.monoArg := rfl
@[simp] theorem State.fillBuffer_views (p : Pixel) : (s.fillBuffer p).views = s.views := rfl
@[simp] theorem State.fillBuffer_fb (p : Pixel) : (s.fillBuffer p).fb = paint Space.fb.size fun _ => p := rfl
@[simp] theorem State.fillBuffer_border (p : Pixel) : (s.fillBuffer p).border = s.border := rfl
@[simp] theorem State.fillBuffer_locked (p : Pixel) : (s.fillBuffer p).locked = s.locked := rfl
@[simp] theorem State.fillBuffer_input (p : Pixel) : (s.fillBuffer p).input = s.input := rfl
@[simp] theorem State.fillBuffer_borderIn (p : Pixel) : (s.fillBuffer p).borderIn = s.borderIn := rfl
@[simp] theorem State.fillBuffer_requests (p : Pixel) : (s.fillBuffer p).requests = s.requests := rfl
@[simp] theorem State.fillBuffer_signals (p : Pixel) : (s.fillBuffer p).signals = s.signals := rfl
@[simp] theorem State.fillBuffer_report (p : Pixel) : (s.fillBuffer p).report = s.report := rfl
@[simp] theorem State.fillBuffer_issue (p : Pixel) : (s.fillBuffer p).issue = s.issue := rfl
@[simp] theorem State.fillBuffer_free (p : Pixel) : (s.fillBuffer p).free = s.free := rfl

/-! ### `State.objPick` and `State.setStore`: every field but the ones they write -/

@[simp] theorem State.objPick_cfg : s.objPick.cfg = s.cfg := by unfold State.objPick; split <;> rfl
@[simp] theorem State.objPick_regs : s.objPick.regs = s.regs := by unfold State.objPick; split <;> rfl
@[simp] theorem State.objPick_phase : s.objPick.phase = s.phase := by unfold State.objPick; split <;> rfl
@[simp] theorem State.objPick_ly : s.objPick.ly = s.ly := by unfold State.objPick; split <;> rfl
@[simp] theorem State.objPick_x : s.objPick.x = s.x := by unfold State.objPick; split <;> rfl
@[simp] theorem State.objPick_clk : s.objPick.clk = s.clk := by unfold State.objPick; split <;> rfl
@[simp] theorem State.objPick_rp : s.objPick.rp = s.rp := by unfold State.objPick; split <;> rfl
@[simp] theorem State.objPick_pp : s.objPick.pp = s.pp := by unfold State.objPick; split <;> rfl
@[simp] theorem State.objPick_inProgress : s.objPick.inProgress = s.inProgress := by unfold State.objPick; split <;> rfl
@[simp] theorem State.objPick_attached : s.objPick.attached = s.attached := by unfold State.objPick; split <;> rfl
@[simp] theorem State.objPick_mask : s.objPick.mask = s.mask := by unfold State.objPick; split <;> rfl
@[simp] theorem State.objPick_bgpal : s.objPick.bgpal = s.bgpal := by unfold State.objPick; split <;> rfl
@[simp] theorem State.objPick_objpal : s.objPick.objpal = s.objpal := by unfold State.objPick; split <;> rfl
@[simp] theorem State.objPick_cands : s.objPick.cands = s.cands := by unfold State.objPick; split <;> rfl
@[simp] theorem State.objPick_cursor : s.objPick.cursor = s.cursor := by unfold State.objPick; split <;> rfl
@[simp] theorem State.objPick_colorArg : s.objPick.colorArg = s.colorArg := by unfold State.objPick; split <;> rfl
@[simp] theorem State.objPick_monoArg : s.objPick.monoArg = s.monoArg := by unfold State.objPick; split <;> rfl
@[simp] theorem State.objPick_views : s.objPick.views = s.views := by unfold State.objPick; split <;> rfl
@[simp] theorem State.objPick_fb : s.objPick.fb = s.fb := by unfold State.objPick; split <;> rfl
@[simp] theorem State.objPick_border : s.objPick.border = s.border := by unfold State.objPick; split <;> rfl
@[simp] theorem State.objPick_locked : s.objPick.locked = s.locked := by unfold State.objPick; split <;> rfl
@[simp] theorem State.objPick_input : s.objPick.input = s.input := by unfold State.objPick; split <;> rfl
@[simp] theorem State.objPick_borderIn : s.objPick.borderIn = s.borderIn := by unfold State.objPick; split <;> rfl
@[simp] theorem State.objPick_requests : s.objPick.requests = s.requests := by unfold State.objPick; split <;> rfl
@[simp] theorem State.objPick_signals : s.objPick.signals = s.signals := by unfold State.objPick; split <;> rfl
@[simp] theorem State.objPick_report : s.objPick.report = s.report := by unfold State.objPick; split <;> rfl
@[simp] theorem State.objPick_issue : s.objPick.issue = s.issue := by unfold State.objPick; split <;> rfl
@[simp] theorem State.objPick_free : s.objPick.free = s.free := by unfold State.objPick; split <;> rfl
@[simp] theorem State.setStore_cfg (h : Bool) (p : BitVec 3) (e : BitVec 2) (c : Pixel) :
    (s.setStore h p e c).cfg = s.cfg := by cases h <;> exact rfl
@[simp] theorem State.setStore_regs (h : Bool) (p : BitVec 3) (e : BitVec 2) (c : Pixel) :
    (s.setStore h p e c).regs = s.regs := by cases h <;> exact rfl
@[simp] theorem State.setStore_phase (h : Bool) (p : BitVec 3) (e : BitVec 2) (c : Pixel) :
    (s.setStore h p e c).phase = s.phase := by cases h <;> exact rfl
@[simp] theorem State.setStore_ly (h : Bool) (p : BitVec 3) (e : BitVec 2) (c : Pixel) :
    (s.setStore h p e c).ly = s.ly := by cases h <;> exact rfl
@[simp] theorem State.setStore_x (h : Bool) (p : BitVec 3) (e : BitVec 2) (c : Pixel) :
    (s.setStore h p e c).x = s.x := by cases h <;> exact rfl
@[simp] theorem State.setStore_clk (h : Bool) (p : BitVec 3) (e : BitVec 2) (c : Pixel) :
    (s.setStore h p e c).clk = s.clk := by cases h <;> exact rfl
@[simp] theorem State.setStore_rp (h : Bool) (p : BitVec 3) (e : BitVec 2) (c : Pixel) :
    (s.setStore h p e c).rp = s.rp := by cases h <;> exact rfl
@[simp] theorem State.setStore_pp (h : Bool) (p : BitVec 3) (e : BitVec 2) (c : Pixel) :
    (s.setStore h p e c).pp = s.pp := by cases h <;> exact rfl
@[simp] theorem State.setStore_inProgress (h : Bool) (p : BitVec 3) (e : BitVec 2) (c : Pixel) :
    (s.setStore h p e c).inProgress = s.inProgress := by cases h <;> exact rfl
@[simp] theorem State.setStore_attached (h : Bool) (p : BitVec 3) (e : BitVec 2) (c : Pixel) :
    (s.setStore h p e c).attached = s.attached := by cases h <;> exact rfl
@[simp] theorem State.setStore_mask (h : Bool) (p : BitVec 3) (e : BitVec 2) (c : Pixel) :
    (s.setStore h p e c).mask = s.mask := by cases h <;> exact rfl
@[simp] theorem State.setStore_cands (h : Bool) (p : BitVec 3) (e : BitVec 2) (c : Pixel) :
    (s.setStore h p e c).cands = s.cands := by cases h <;> exact rfl
@[simp] theorem State.setStore_cursor (h : Bool) (p : BitVec 3) (e : BitVec 2) (c : Pixel) :
    (s.setStore h p e c).cursor = s.cursor := by cases h <;> exact rfl
@[simp] theorem State.setStore_pix (h : Bool) (p : BitVec 3) (e : BitVec 2) (c : Pixel) :
    (s.setStore h p e c).pix = s.pix := by cases h <;> exact rfl
@[simp] theorem State.setStore_colorArg (h : Bool) (p : BitVec 3) (e : BitVec 2) (c : Pixel) :
    (s.setStore h p e c).colorArg = s.colorArg := by cases h <;> exact rfl
@[simp] theorem State.setStore_monoArg (h : Bool) (p : BitVec 3) (e : BitVec 2) (c : Pixel) :
    (s.setStore h p e c).monoArg = s.monoArg := by cases h <;> exact rfl
@[simp] theorem State.setStore_views (h : Bool) (p : BitVec 3) (e : BitVec 2) (c : Pixel) :
    (s.setStore h p e c).views = s.views := by cases h <;> exact rfl
@[simp] theorem State.setStore_fb (h : Bool) (p : BitVec 3) (e : BitVec 2) (c : Pixel) :
    (s.setStore h p e c).fb = s.fb := by cases h <;> exact rfl
@[simp] theorem State.setStore_border (h : Bool) (p : BitVec 3) (e : BitVec 2) (c : Pixel) :
    (s.setStore h p e c).border = s.border := by cases h <;> exact rfl
@[simp] theorem State.setStore_locked (h : Bool) (p : BitVec 3) (e : BitVec 2) (c : Pixel) :
    (s.setStore h p e c).locked = s.locked := by cases h <;> exact rfl
@[simp] theorem State.setStore_input (h : Bool) (p : BitVec 3) (e : BitVec 2) (c : Pixel) :
    (s.setStore h p e c).input = s.input := by cases h <;> exact rfl
@[simp] theorem State.setStore_borderIn (h : Bool) (p : BitVec 3) (e : BitVec 2) (c : Pixel) :
    (s.setStore h p e c).borderIn = s.borderIn := by cases h <;> exact rfl
@[simp] theorem State.setStore_requests (h : Bool) (p : BitVec 3) (e : BitVec 2) (c : Pixel) :
    (s.setStore h p e c).requests = s.requests := by cases h <;> exact rfl
@[simp] theorem State.setStore_signals (h : Bool) (p : BitVec 3) (e : BitVec 2) (c : Pixel) :
    (s.setStore h p e c).signals = s.signals := by cases h <;> exact rfl
@[simp] theorem State.setStore_report (h : Bool) (p : BitVec 3) (e : BitVec 2) (c : Pixel) :
    (s.setStore h p e c).report = s.report := by cases h <;> exact rfl
@[simp] theorem State.setStore_issue (h : Bool) (p : BitVec 3) (e : BitVec 2) (c : Pixel) :
    (s.setStore h p e c).issue = s.issue := by cases h <;> exact rfl
@[simp] theorem State.setStore_free (h : Bool) (p : BitVec 3) (e : BitVec 2) (c : Pixel) :
    (s.setStore h p e c).free = s.free := by cases h <;> exact rfl

end Sys2Proof.Machine
end

