-- ==== Sys2Proof/Laws/Ops.lean ====
section
/-! SUPPORT. What each shared operation can do, said once: when it goes on, what it leaves, and what it leaves alone. -/

namespace Sys2Proof.Machine

variable {s t : State}

/-! ### Sequencing -/

theorem ofExcept_eq_next {x : Except Fault State} : ofExcept x = .next t ↔ x = .ok t := by
  cases x <;> simp [ofExcept]

theorem andThen_eq_next {o : Result} {f : State → Result} :
    andThen o f = .next t ↔ ∃ u, o = .next u ∧ f u = .next t := by
  cases o <;> simp [andThen]

theorem bind_eq_ok {ε α β : Type} {x : Except ε α} {f : α → Except ε β} {b : β} :
    (x >>= f) = .ok b ↔ ∃ a, x = .ok a ∧ f a = .ok b := by
  cases x <;> simp [bind, Except.bind]

theorem ok_bind {ε α β : Type} (a : α) (f : α → Except ε β) : ((Except.ok a : Except ε α) >>= f) = f a := rfl

/-! ### Reading and writing the views (R72, R74) -/

theorem readByte_ok {sp : Space} {a : Nat} {v : Views} (hp : sp.present s.cfg.hwMode = true) (hv : s.views = some v)
    (ha : a < sp.size) : s.readByte sp a = .ok (memGet (v.get sp) a) := by
  simp [State.readByte, hp, hv, ha]

theorem readPair_ok {sp : Space} {a : Nat} {v : Views} (hp : sp.present s.cfg.hwMode = true) (hv : s.views = some v)
    (ha : a + 1 < sp.size) : s.readPair sp a = .ok (memGet (v.get sp) a, memGet (v.get sp) (a + 1)) := by
  simp only [State.readPair]
  rw [readByte_ok hp hv (by omega), readByte_ok hp hv ha]
  rfl

/-- A read depends only on the hardware mode and the views. -/
theorem readByte_congr (hc : s.cfg = t.cfg) (hv : s.views = t.views) (sp : Space) (a : Nat) :
    s.readByte sp a = t.readByte sp a := by
  simp only [State.readByte, hc, hv]

theorem readPair_congr (hc : s.cfg = t.cfg) (hv : s.views = t.views) (sp : Space) (a : Nat) :
    s.readPair sp a = t.readPair sp a := by
  simp only [State.readPair, readByte_congr hc hv]

theorem readRaw_congr (hc : s.cfg = t.cfg) (hv : s.views = t.views) (e : BitVec 6) : s.readRaw e = t.readRaw e := by
  simp only [State.readRaw, readPair_congr hc hv]

theorem readRaw_ok {v : Views} (hm : s.cfg.hwMode = .color) (hv : s.views = some v) (e : BitVec 6) :
    s.readRaw e = .ok (rawAt v.palram (2 * e.toNat)) := by
  have he := e.isLt
  simp only [State.readRaw]
  rw [readPair_ok (sp := .palram) (by simp [Space.present, hm]) hv (by simp only [Space.size]; omega)]
  rfl

theorem writePalram_ok {v : Views} (hm : s.cfg.hwMode = .color) (hv : s.views = some v) (off : BitVec 7) (d : Byte) :
    s.writePalram off d = .ok { s with views := some { v with palram := memSet off.toNat d v.palram } } := by
  simp [State.writePalram, Space.present, hm, hv]

/-! ### The palette store (R181, R182) -/

theorem palIndex_inj {p q : BitVec 3} {e f : BitVec 2} : palIndex p e = palIndex q f ↔ p = q ∧ e = f := by
  have := e.isLt
  have := f.isLt
  simp only [palIndex, Fin.mk.injEq]
  constructor
  · intro h
    exact ⟨BitVec.eq_of_toNat_eq (by omega), BitVec.eq_of_toNat_eq (by omega)⟩
  · rintro ⟨rfl, rfl⟩; rfl

/-- A store write changes the entry written and no other. -/
theorem storeAt_setStore (s : State) (h k : Bool) (p q : BitVec 3) (e f : BitVec 2) (c : Pixel) :
    (s.setStore h p e c).storeAt k q f = if k = h ∧ q = p ∧ f = e then c else s.storeAt k q f := by
  have key : (palIndex p e).val = (palIndex q f).val ↔ q = p ∧ f = e := by
    rw [← Fin.ext_iff, palIndex_inj]; constructor <;> rintro ⟨rfl, rfl⟩ <;> simp
  cases h <;> cases k <;> simp [State.setStore, State.storeAt, State.bgColor, State.objColor, Vector.getElem_set, key]

theorem setStore_frame (s : State) (h : Bool) (p : BitVec 3) (e : BitVec 2) (c : Pixel) :
    s.setStore h p e c = { s with
      bgpal := (s.setStore h p e c).bgpal, objpal := (s.setStore h p e c).objpal } := by
  cases h <;> rfl

/-- The store is read through the two palette arrays alone. -/
theorem storeAt_congr (hb : s.bgpal = t.bgpal) (ho : s.objpal = t.objpal) (h : Bool) (p : BitVec 3) (e : BitVec 2) :
    s.storeAt h p e = t.storeAt h p e := by
  simp only [State.storeAt, State.bgColor, State.objColor, hb, ho]

@[simp] theorem storeAt_setPhase (s : State) (q : Phase) (h : Bool) (p : BitVec 3) (e : BitVec 2) :
    (s.setPhase q).storeAt h p e = s.storeAt h p e := rfl

theorem callColor_frame (s : State) (a : ColorArg) :
    s.callColor a = { s with
      bgpal := (s.callColor a).bgpal, objpal := (s.callColor a).objpal, colorArg := .clear } := by
  unfold State.callColor State.storeColor
  rw [setStore_frame]

/-- `SET_COLOR_PALETTE` as a part: its one entry, and nothing else of the store. -/
theorem storeAt_callColor (s : State) (a : ColorArg) (h : Bool) (p : BitVec 3) (e : BitVec 2) :
    (s.callColor a).storeAt h p e =
      if h = a.half ∧ p = a.p ∧ e = a.e then colorLut s.cfg a.raw else s.storeAt h p e := by
  have := storeAt_setStore { s with colorArg := a } a.half h a.p p a.e e (colorLut s.cfg a.raw)
  exact this

theorem storeMonoEntry_frame (s : State) (j : BitVec 2) :
    s.storeMonoEntry j = { s with bgpal := (s.storeMonoEntry j).bgpal, objpal := (s.storeMonoEntry j).objpal } :=
  setStore_frame ..

theorem storeMono_frame (s : State) :
    s.storeMono = { s with bgpal := s.storeMono.bgpal, objpal := s.storeMono.objpal } := by
  unfold State.storeMono
  generalize h0 : s.storeMonoEntry 0 = s0
  generalize h1 : s0.storeMonoEntry 1 = s1
  generalize h2 : s1.storeMonoEntry 2 = s2
  rw [storeMonoEntry_frame s2, ← h2, storeMonoEntry_frame s1, ← h1, storeMonoEntry_frame s0, ← h0, storeMonoEntry_frame s]

theorem storeAt_storeMonoEntry (s : State) (j : BitVec 2) (h : Bool) (p : BitVec 3) (e : BitVec 2) :
    (s.storeMonoEntry j).storeAt h p e =
      if h = (monoDest s.monoArg.target).1 ∧ p = (monoDest s.monoArg.target).2 ∧ e = j
      then monoRamp s.cfg s.monoArg.target (monoEntry s.monoArg.reg j) else s.storeAt h p e :=
  storeAt_setStore ..

theorem storeMonoEntry_monoArg (s : State) (j : BitVec 2) : (s.storeMonoEntry j).monoArg = s.monoArg := by
  rw [storeMonoEntry_frame]

theorem storeMonoEntry_cfg (s : State) (j : BitVec 2) : (s.storeMonoEntry j).cfg = s.cfg := by
  rw [storeMonoEntry_frame]

/-- `SET_MONO_PALETTE`: all four entries of its palette, and nothing else of the store. -/
theorem storeAt_storeMono (s : State) (h : Bool) (p : BitVec 3) (e : BitVec 2) :
    s.storeMono.storeAt h p e =
      if h = (monoDest s.monoArg.target).1 ∧ p = (monoDest s.monoArg.target).2
      then monoRamp s.cfg s.monoArg.target (monoEntry s.monoArg.reg e) else s.storeAt h p e := by
  simp only [State.storeMono, storeAt_storeMonoEntry, storeMonoEntry_monoArg, storeMonoEntry_cfg]
  have he : e = 0 ∨ e = 1 ∨ e = 2 ∨ e = 3 := by revert e; decide
  rcases he with rfl | rfl | rfl | rfl <;> simp

theorem callMono_frame (s : State) (r : Byte) (m : MonoTarget) :
    s.callMono r m = { s with
      bgpal := (s.callMono r m).bgpal, objpal := (s.callMono r m).objpal, monoArg := .clear } := by
  unfold State.callMono
  rw [storeMono_frame]

theorem storeAt_callMono (s : State) (r : Byte) (m : MonoTarget) (h : Bool) (p : BitVec 3) (e : BitVec 2) :
    (s.callMono r m).storeAt h p e =
      if h = (monoDest m).1 ∧ p = (monoDest m).2 then monoRamp s.cfg m (monoEntry r e) else s.storeAt h p e :=
  storeAt_storeMono { s with monoArg := ⟨r, m⟩ } h p e

/-! ### The output buffer (R78, R285, R316) -/

theorem writePixel_ok {ly x : Nat} (p : Pixel) (hl : ly < lines) (hx : x < width) :
    s.writePixel ly x p = .ok { s with fb := insertCell (fbIndex ly x) p s.fb } := by
  simp [State.writePixel, hl, hx]

theorem fbIndex_lt {ly x : Nat} (hl : ly < lines) (hx : x < width) : fbIndex ly x < Space.fb.size := by
  simp only [fbIndex, Space.size, lines, width] at *; omega

/-- A run of one pixel along a line: those columns and nothing else, in canonical form. -/
theorem writeRun_ok {ly : Nat} (p : Pixel) (n x : Nat) (s : State) (hl : ly < lines) (hx : x + n ≤ width) :
    ∃ fb, writeRun ly p n x s = .ok { s with fb := fb }
      ∧ (∀ a, lookupCell a fb = if fbIndex ly x ≤ a ∧ a < fbIndex ly x + n then some p else lookupCell a s.fb)
      ∧ (bufferWf Space.fb.size s.fb = true → bufferWf Space.fb.size fb = true)
      ∧ (∀ c ∈ fb, c.2 = p ∨ c ∈ s.fb) := by
  induction n generalizing x s with
  | zero =>
    refine ⟨s.fb, rfl, fun a => ?_, id, fun c h => .inr h⟩
    rw [if_neg (by omega)]
  | succ n ih =>
    obtain ⟨fb, h1, h2, h3, h4⟩ :=
      ih (x + 1) { s with fb := insertCell (fbIndex ly x) p s.fb } (by omega)
    refine ⟨fb, ?_, fun a => ?_, fun h => h3 (insertCell_bufferWf (fbIndex_lt hl (by omega)) h), fun c hc => ?_⟩
    · rw [writeRun, writePixel_ok p hl (by omega)]; exact h1
    · rw [h2, lookupCell_insertCell]
      have hk : fbIndex ly (x + 1) = fbIndex ly x + 1 := rfl
      rw [hk]
      split_ifs <;> first | rfl | (exfalso; omega)
    · rcases h4 c hc with h | h
      · exact .inl h
      · rcases mem_insertCell h with h | h
        · exact .inl (by rw [h])
        · exact .inr h

/-! ### Taking a fault (R358) -/

/-- Taking a fault when nothing is locked: the flag, the report and the phase, and nothing else. -/
theorem takeFault_unlocked (h : s.locked = none) (r : Report) :
    s.takeFault r = { s with inProgress := false, report := some r, phase := .idle } := by
  simp [State.takeFault, State.releaseBuffer, h]

/-- Taking a fault always ends in IDLE with the flag clear and nothing locked. -/
theorem takeFault_resting (s : State) (r : Report) :
    (s.takeFault r).phase = .idle ∧ (s.takeFault r).inProgress = false ∧ (s.takeFault r).locked = none := by
  refine ⟨rfl, rfl, ?_⟩
  simp only [State.takeFault, State.releaseBuffer]
  split <;> simp_all

/-! ### Fetching -/

theorem fetch_of_no_issue (h : s.issue = none) : s.fetch = .seq s.phase.code := by simp [State.fetch, h]

theorem fetched_of_no_issue (h : s.issue = none) : s.fetched = s := by
  obtain ⟨⟩ := s; cases h; rfl

/-- The command each phase names (R121). -/
def Phase.instr : Phase → Instr
  | .idle => .idle
  | .frameBegin => .frameBegin
  | .maskDispatch => .maskDispatch
  | .bufLock => .bufLock
  | .fill => .fill
  | .frameLoad => .frameLoad
  | .palReload => .palReload
  | .lineStart => .lineStart
  | .lineBlank => .lineBlank
  | .objSearch => .objSearch
  | .pixel => .pixel
  | .lineEnd => .lineEnd
  | .bufUnlock => .bufUnlock
  | .present => .present
  | .frameEnd => .frameEnd
  | .borderRender => .borderRender

theorem decode_phase (p : Phase) : decode (.seq p.code) = .ok (Phase.instr p) := by cases p <;> rfl

/-- Without a command from outside, a step performs the command its phase names. -/
theorem step_phase (h : s.issue = none) : step s = exec (Phase.instr s.phase) s := by
  simp only [step, fetch_of_no_issue h, decode_phase, fetched_of_no_issue h]

/-! ### Running -/

theorem core_run_succ (M : Host.Core) {s t : M.State} (h : M.step s = .next t) (k : Nat) :
    M.run (k + 1) s = M.run k t := by
  simp only [Host.Core.run, h]

/-- One step of a run. -/
theorem run_succ (h : step s = .next t) (k : Nat) : Sys2Proof.core.run (k + 1) s = Sys2Proof.core.run k t :=
  core_run_succ Sys2Proof.core h k

end Sys2Proof.Machine
end

