-- ==== Sys2Proof/Laws/Address.lean ====
section
/-! SUPPORT. Every address the operations compute is even where a pair is read, and lies inside its space (R84, R86). -/

namespace Sys2Proof.Machine

theorem cellAddr_lt {second : Bool} {row col : Nat} (hr : row < 32) (hc : col < 32) :
    0x1800 ≤ cellAddr (mapBase second) row col ∧ cellAddr (mapBase second) row col < 0x2000 := by
  cases second <;> simp only [cellAddr, mapBase] <;> constructor <;> simp <;> omega

theorem tileBase_le (u : Bool) (idx : Byte) : tileBase u idx ≤ 0x17F0 ∧ tileBase u idx % 16 = 0 := by
  have hi := idx.isLt
  cases u
  · simp only [tileBase, Bool.false_eq_true, if_false]
    rw [BitVec.toInt_eq_toNat_cond]
    split <;> omega
  · simp only [tileBase, if_true]; omega

/-- A tile row's pair is at an even offset inside its bank (R84, R86). -/
theorem tileRowAddr_lt (u : Bool) (idx : Byte) (vflip : Bool) {trow : Nat} (h : trow < 8) :
    tileRowAddr u idx vflip trow + 1 < 0x1800 ∧ tileRowAddr u idx vflip trow % 2 = 0 := by
  have := tileBase_le u idx
  cases vflip <;> simp only [tileRowAddr, Bool.false_eq_true, if_false, if_true] <;> omega

/-- An object that covers the line shows a row within its height (R213). -/
theorem objRow_lt {top : Int} {h ly : Nat} (yflip : Bool) (hc : objCovers top h ly = true) : objRow top h ly yflip < h := by
  simp only [objCovers, decide_eq_true_eq] at hc
  cases yflip <;> simp only [objRow, Bool.false_eq_true, if_false, if_true] <;> omega

theorem objTile_even {tile : Byte} : (objTile 16 tile).toNat % 2 = 0 := by
  revert tile; decide

/-- An object's pair is at an even offset below `0x1000` (R84, R86, R214). -/
theorem objAddr_lt {lcdc tile : Byte} {r : Nat} (hr : r < objHeight lcdc) :
    objAddr (objHeight lcdc) tile r + 1 < 0x1000 ∧ objAddr (objHeight lcdc) tile r % 2 = 0 := by
  cases hs : lcdcOsize lcdc <;> simp only [objHeight, hs, if_true, Bool.false_eq_true, if_false] at hr ⊢
  · have h1 := (objTile 8 tile).isLt
    simp only [objAddr]; omega
  · have h1 := (objTile 16 tile).isLt
    have h2 := @objTile_even tile
    simp only [objAddr]; omega

end Sys2Proof.Machine
end

