-- ==== Sys2Proof/Laws/Encoding.lean ====
section
/-! SUPPORT. Fields of words: what a mask selects, the fields of an assembled record or mask word, and that a word is the
assembly of its fields. -/

namespace Sys2Proof

/-! ### A mask over one field (R140) -/

/-- A word under the mask of one field is that field in its place. -/
theorem and_field {n : Nat} (w : BitVec n) (lo len : Nat) :
    w &&& ((BitVec.allOnes len).setWidth n <<< lo) = (w.extractLsb' lo len).setWidth n <<< lo := by
  apply BitVec.eq_of_getLsbD_eq
  intro i hi
  simp only [BitVec.getLsbD_and, BitVec.getLsbD_shiftLeft, BitVec.getLsbD_setWidth, BitVec.getLsbD_allOnes,
    BitVec.getLsbD_extractLsb', hi, decide_true, Bool.true_and]
  by_cases h1 : i < lo
  · simp [h1]
  · by_cases h2 : i - lo < len
    · have h3 : lo + (i - lo) = i := by omega
      have h4 : i - lo < n := by omega
      simp [h1, h2, h3, h4]
    · simp [h1, h2]

/-- A word matches a pattern under the mask of one field exactly when the field has the pattern's value. -/
theorem field_eq {n : Nat} (w : BitVec n) (lo len : Nat) (h : lo + len ≤ n) (v : BitVec len) :
    w &&& ((BitVec.allOnes len).setWidth n <<< lo) = v.setWidth n <<< lo ↔ w.extractLsb' lo len = v := by
  rw [and_field]
  constructor
  · intro he
    apply BitVec.eq_of_getLsbD_eq
    intro i hi
    have hb := congrArg (fun x => x.getLsbD (lo + i)) he
    simp only [BitVec.getLsbD_shiftLeft, BitVec.getLsbD_setWidth] at hb
    have h1 : lo + i < n := by omega
    have h3 : i < n := by omega
    simpa [h1, h3] using hb
  · rintro rfl; rfl

/-! ### Timed-event records (R111) -/

theorem evtWord_toNat (c : BitVec 32) (k : BitVec 4) (o : BitVec 7) (d : Byte) :
    (evtWord c k o d).toNat = c.toNat * 2 ^ 32 + k.toNat * 2 ^ 28 + o.toNat * 2 ^ 8 + d.toNat := by
  simp only [evtWord, BitVec.toNat_append]
  rw [← Nat.shiftLeft_add_eq_or_of_lt d.isLt, ← Nat.shiftLeft_add_eq_or_of_lt o.isLt,
    ← Nat.shiftLeft_add_eq_or_of_lt k.isLt, ← Nat.shiftLeft_add_eq_or_of_lt (0#13).isLt]
  simp only [Nat.shiftLeft_eq, BitVec.toNat_ofNat]
  omega

theorem recClock_toNat (w : BitVec 64) : (recClock w).toNat = w.toNat / 2 ^ 32 % 2 ^ 32 := by
  simp [recClock, BitVec.extractLsb'_toNat, Nat.shiftRight_eq_div_pow]

theorem recTarget_toNat (w : BitVec 64) : (recTarget w).toNat = w.toNat / 2 ^ 28 % 2 ^ 4 := by
  simp [recTarget, BitVec.extractLsb'_toNat, Nat.shiftRight_eq_div_pow]

theorem recZero_toNat (w : BitVec 64) : (recZero w).toNat = w.toNat / 2 ^ 15 % 2 ^ 13 := by
  simp [recZero, BitVec.extractLsb'_toNat, Nat.shiftRight_eq_div_pow]

theorem recOffset_toNat (w : BitVec 64) : (recOffset w).toNat = w.toNat / 2 ^ 8 % 2 ^ 7 := by
  simp [recOffset, BitVec.extractLsb'_toNat, Nat.shiftRight_eq_div_pow]

theorem recData_toNat (w : BitVec 64) : (recData w).toNat = w.toNat % 2 ^ 8 := by
  simp [recData, BitVec.extractLsb'_toNat]

theorem recClock_evtWord (c : BitVec 32) (k : BitVec 4) (o : BitVec 7) (d : Byte) : recClock (evtWord c k o d) = c := by
  have hc := c.isLt; have hk := k.isLt; have ho := o.isLt; have hd := d.isLt
  exact BitVec.eq_of_toNat_eq (by rw [recClock_toNat, evtWord_toNat]; omega)

theorem recTarget_evtWord (c : BitVec 32) (k : BitVec 4) (o : BitVec 7) (d : Byte) : recTarget (evtWord c k o d) = k := by
  have hc := c.isLt; have hk := k.isLt; have ho := o.isLt; have hd := d.isLt
  exact BitVec.eq_of_toNat_eq (by rw [recTarget_toNat, evtWord_toNat]; omega)

theorem recZero_evtWord (c : BitVec 32) (k : BitVec 4) (o : BitVec 7) (d : Byte) : recZero (evtWord c k o d) = 0 := by
  have hc := c.isLt; have hk := k.isLt; have ho := o.isLt; have hd := d.isLt
  exact BitVec.eq_of_toNat_eq (by rw [recZero_toNat, evtWord_toNat]; show _ = 0; omega)

theorem recOffset_evtWord (c : BitVec 32) (k : BitVec 4) (o : BitVec 7) (d : Byte) : recOffset (evtWord c k o d) = o := by
  have hc := c.isLt; have hk := k.isLt; have ho := o.isLt; have hd := d.isLt
  exact BitVec.eq_of_toNat_eq (by rw [recOffset_toNat, evtWord_toNat]; omega)

theorem recData_evtWord (c : BitVec 32) (k : BitVec 4) (o : BitVec 7) (d : Byte) : recData (evtWord c k o d) = d := by
  have hc := c.isLt; have hk := k.isLt; have ho := o.isLt; have hd := d.isLt
  exact BitVec.eq_of_toNat_eq (by rw [recData_toNat, evtWord_toNat]; omega)

/-- A record with its reserved bits clear is the assembly of its fields (R111). -/
theorem evtWord_of_fields {w : BitVec 64} (hz : recZero w = 0) :
    evtWord (recClock w) (recTarget w) (recOffset w) (recData w) = w := by
  have hw := w.isLt
  have h0 : w.toNat / 2 ^ 15 % 2 ^ 13 = 0 := by rw [← recZero_toNat, hz]; rfl
  apply BitVec.eq_of_toNat_eq
  rw [evtWord_toNat, recClock_toNat, recTarget_toNat, recOffset_toNat, recData_toNat]
  omega

/-- The row of a register event (R140): its target, and the reserved fields clear. -/
theorem evtRow_iff (w : BitVec 64) (k : BitVec 4) :
    w.extractLsb' 8 24 = k ++ 0#13 ++ 0#7 ↔ recTarget w = k ∧ recZero w = 0 ∧ recOffset w = 0 := by
  have hv : (k ++ 0#13 ++ 0#7 : BitVec 24).toNat = k.toNat * 2 ^ 20 := by
    simp only [BitVec.toNat_append]
    rw [← Nat.shiftLeft_add_eq_or_of_lt (0#7).isLt, ← Nat.shiftLeft_add_eq_or_of_lt (0#13).isLt]
    simp only [Nat.shiftLeft_eq, BitVec.toNat_ofNat]
    omega
  have hk := k.isLt
  rw [← BitVec.toNat_inj, ← BitVec.toNat_inj, ← BitVec.toNat_inj, ← BitVec.toNat_inj, recTarget_toNat, recZero_toNat,
    recOffset_toNat, hv]
  simp only [BitVec.extractLsb'_toNat, Nat.shiftRight_eq_div_pow]
  show _ ↔ _ = _ ∧ _ = 0 ∧ _ = 0
  omega

/-- The row of a palette-byte event (R140): its target, and `zero` clear. -/
theorem palbyteRow_iff (w : BitVec 64) : w.extractLsb' 15 17 = 7#4 ++ 0#13 ↔ recTarget w = 7 ∧ recZero w = 0 := by
  rw [← BitVec.toNat_inj, ← BitVec.toNat_inj, ← BitVec.toNat_inj, recTarget_toNat, recZero_toNat]
  simp only [BitVec.extractLsb'_toNat, Nat.shiftRight_eq_div_pow]
  show _ = 57344 ↔ _ = 7 ∧ _ = 0
  omega

/-! ### Mask words (R120) -/

theorem maskWord_mode (m : BitVec 3) (k : BitVec 15) : (maskWord m k).extractLsb' 15 3 = m := by
  have hm := m.isLt; have hk := k.isLt
  apply BitVec.eq_of_toNat_eq
  simp only [maskWord, BitVec.extractLsb'_toNat, BitVec.toNat_append]
  rw [← Nat.shiftLeft_add_eq_or_of_lt hk]
  simp only [Nat.shiftRight_eq_div_pow, Nat.shiftLeft_eq]
  omega

theorem maskWord_k (m : BitVec 3) (k : BitVec 15) : (maskWord m k).extractLsb' 0 15 = k := by
  have hm := m.isLt; have hk := k.isLt
  apply BitVec.eq_of_toNat_eq
  simp only [maskWord, BitVec.extractLsb'_toNat, BitVec.toNat_append]
  rw [← Nat.shiftLeft_add_eq_or_of_lt hk]
  simp only [Nat.shiftRight_eq_div_pow, Nat.shiftLeft_eq]
  omega

/-- A mask word is the assembly of its fields (R120). -/
theorem maskWord_of_fields (w : BitVec 18) : maskWord (w.extractLsb' 15 3) (w.extractLsb' 0 15) = w := by
  have hw := w.isLt
  apply BitVec.eq_of_toNat_eq
  simp only [maskWord, BitVec.toNat_append]
  rw [← Nat.shiftLeft_add_eq_or_of_lt (w.extractLsb' 0 15).isLt]
  simp only [BitVec.extractLsb'_toNat, Nat.shiftRight_eq_div_pow, Nat.shiftLeft_eq]
  omega

/-- The row of a mask command (R140): its mode. -/
theorem maskRow_iff (w : BitVec 18) (m : BitVec 3) : w &&& 0x38000#18 = m.setWidth 18 <<< 15 ↔ w.extractLsb' 15 3 = m :=
  field_eq w 15 3 (by omega) m

/-- The row of `MASK_WHITE` (R140): the top bit of the mode. -/
theorem whiteRow_iff (w : BitVec 18) : w &&& 0x20000#18 = 0x20000#18 ↔ (w.extractLsb' 15 3).getLsbD 2 = true := by
  rw [show (w.extractLsb' 15 3).getLsbD 2 = w.getLsbD 17 by simp]
  rw [show (0x20000#18 : BitVec 18) = (1#1).setWidth 18 <<< 17 from rfl,
    show w &&& (1#1).setWidth 18 <<< 17 = w &&& ((BitVec.allOnes 1).setWidth 18 <<< 17) from rfl, field_eq w 17 1 (by omega)]
  constructor
  · intro h
    have := congrArg (fun x => x.getLsbD 0) h
    simpa [BitVec.getLsbD_extractLsb'] using this
  · intro h
    apply BitVec.eq_of_getLsbD_eq
    intro i hi
    have : i = 0 := by omega
    subst this
    simpa [BitVec.getLsbD_extractLsb'] using h

/-! ### Which rows a word selects (R140) -/

theorem selects_evt (w : BitVec 64) (k : BitVec 4) (p : BitVec 64)
    (hp : p = (k ++ 0#13 ++ 0#7 : BitVec 24).setWidth 64 <<< 8) :
    (Code.evt w).selects (.evt p 0x00000000FFFFFF00) = true ↔ recTarget w = k ∧ recZero w = 0 ∧ recOffset w = 0 := by
  rw [← evtRow_iff, Code.selects, beq_iff_eq, hp]
  exact field_eq w 8 24 (by omega) _

theorem selects_palbyte (w : BitVec 64) :
    (Code.evt w).selects (.evt 0x0000000070000000 0x00000000FFFF8000) = true ↔ recTarget w = 7 ∧ recZero w = 0 := by
  rw [← palbyteRow_iff, Code.selects, beq_iff_eq]
  exact field_eq w 15 17 (by omega) (7#4 ++ 0#13)

theorem selects_mask (w : BitVec 18) (m : BitVec 3) (p : BitVec 18) (hp : p = m.setWidth 18 <<< 15) :
    (Code.mask w).selects (.mask p 0x38000) = true ↔ w.extractLsb' 15 3 = m := by
  rw [← maskRow_iff, Code.selects, beq_iff_eq, hp]
  exact Iff.rfl

theorem selects_white (w : BitVec 18) :
    (Code.mask w).selects (.mask 0x20000 0x20000) = true ↔ (w.extractLsb' 15 3).getLsbD 2 = true := by
  rw [← whiteRow_iff, Code.selects, beq_iff_eq]
  exact Iff.rfl

/-- A word's row, told by its fields alone. -/
def Code.row : Code → Option String
  | .evt w =>
    if recZero w = 0 then
      if recTarget w = 7 then some "EV_PALBYTE"
      else if recOffset w = 0 then
        ["EV_LCDC", "EV_SCX", "EV_SCY", "EV_WX", "EV_BGP", "EV_OBP0", "EV_OBP1"][(recTarget w).toNat]?
      else none
    else none
  | .mask w => ["MASK_NORMAL", "MASK_FROZEN", "MASK_BLACK", "MASK_COLOR"].getD (w.extractLsb' 15 3).toNat "MASK_WHITE"
  | .seq w => (opcodeRows.drop 13)[w.toNat]?.map Prod.fst

theorem evt_row (w : BitVec 64) (k : BitVec 4) (hk : k < 7) : recTarget w = k ∧ recZero w = 0 ∧ recOffset w = 0 ↔
    (Code.evt w).row =
      some (["EV_LCDC", "EV_SCX", "EV_SCY", "EV_WX", "EV_BGP", "EV_OBP0", "EV_OBP1"].getD k.toNat "") := by
  have key : ∀ t k : BitVec 4, k < 7 → (t = k ↔ (if t = 7 then some "EV_PALBYTE" else
      ["EV_LCDC", "EV_SCX", "EV_SCY", "EV_WX", "EV_BGP", "EV_OBP0", "EV_OBP1"][t.toNat]?) =
      some (["EV_LCDC", "EV_SCX", "EV_SCY", "EV_WX", "EV_BGP", "EV_OBP0", "EV_OBP1"].getD k.toNat "")) := by decide
  have hpal : ∀ k : BitVec 4, k < 7 → "EV_PALBYTE" ≠
      ["EV_LCDC", "EV_SCX", "EV_SCY", "EV_WX", "EV_BGP", "EV_OBP0", "EV_OBP1"].getD k.toNat "" := by decide
  rw [show (Code.evt w).row = if recZero w = 0 then if recTarget w = 7 then some "EV_PALBYTE" else
      if recOffset w = 0 then ["EV_LCDC", "EV_SCX", "EV_SCY", "EV_WX", "EV_BGP", "EV_OBP0", "EV_OBP1"][(recTarget w).toNat]?
      else none else none from rfl]
  by_cases hz : recZero w = 0
  · by_cases ho : recOffset w = 0
    · rw [if_pos hz, if_pos ho, ← key _ _ hk]; simp only [hz, ho, and_true]
    · rw [if_pos hz, if_neg ho]
      refine ⟨fun h => absurd h.2.2 ho, fun h => ?_⟩
      split at h
      · exact absurd (Option.some.inj h) (hpal k hk)
      · cases h
  · rw [if_neg hz]
    exact ⟨fun h => absurd h.2.1 hz, nofun⟩

theorem evt_row_palbyte (w : BitVec 64) : recTarget w = 7 ∧ recZero w = 0 ↔ (Code.evt w).row = some "EV_PALBYTE" := by
  rw [show (Code.evt w).row = if recZero w = 0 then if recTarget w = 7 then some "EV_PALBYTE" else
      if recOffset w = 0 then ["EV_LCDC", "EV_SCX", "EV_SCY", "EV_WX", "EV_BGP", "EV_OBP0", "EV_OBP1"][(recTarget w).toNat]?
      else none else none from rfl]
  by_cases hz : recZero w = 0
  · rw [if_pos hz]
    by_cases ht : recTarget w = 7
    · rw [if_pos ht]; simp only [ht, hz, and_self]
    · rw [if_neg ht]
      refine ⟨fun h => absurd h.1 ht, fun h => ?_⟩
      split at h
      · exact absurd (List.mem_of_getElem? h) (by decide)
      · cases h
  · rw [if_neg hz]
    exact ⟨fun h => absurd h.2 hz, nofun⟩

/-- A word selects the one row its fields name, and no other (R140). -/
theorem selects_row (c : Code) (r : String × Row) (h : r ∈ opcodeRows) : c.selects r.2 = true ↔ c.row = some r.1 := by
  simp only [opcodeRows, List.cons_append, List.nil_append, List.mem_cons, List.not_mem_nil, or_false] at h
  cases c with
  | evt w =>
    rcases h with rfl | rfl | rfl | rfl | rfl | rfl | rfl | rfl | h
    case inr.inr.inr.inr.inr.inr.inr.inr =>
      have hs : (Code.evt w).selects r.2 = false ∧ r.1 ∉ ["EV_PALBYTE", "EV_LCDC", "EV_SCX", "EV_SCY", "EV_WX", "EV_BGP",
          "EV_OBP0", "EV_OBP1"] := by
        rcases h with rfl | rfl | rfl | rfl | rfl | rfl | rfl | rfl | rfl | rfl | rfl | rfl | rfl | rfl | rfl | rfl | rfl
          | rfl | rfl | rfl | rfl | rfl | rfl | rfl | rfl | rfl | rfl | rfl | rfl <;> exact ⟨rfl, by decide⟩
      rw [hs.1]
      refine ⟨nofun, fun hr => absurd ?_ hs.2⟩
      simp only [Code.row] at hr
      split at hr
      · split at hr
        · rw [← Option.some.inj hr]; decide
        · split at hr
          · exact List.mem_cons_of_mem _ (List.mem_of_getElem? hr)
          · cases hr
      · cases hr
    case inr.inr.inr.inr.inr.inr.inr.inl => rw [selects_palbyte]; exact evt_row_palbyte ..
    all_goals first
      | exact (selects_evt w 0 _ rfl).trans (evt_row w 0 (by decide)) | exact (selects_evt w 1 _ rfl).trans (evt_row w 1 (by decide))
      | exact (selects_evt w 2 _ rfl).trans (evt_row w 2 (by decide)) | exact (selects_evt w 3 _ rfl).trans (evt_row w 3 (by decide))
      | exact (selects_evt w 4 _ rfl).trans (evt_row w 4 (by decide)) | exact (selects_evt w 5 _ rfl).trans (evt_row w 5 (by decide))
      | exact (selects_evt w 6 _ rfl).trans (evt_row w 6 (by decide))
  | mask w =>
    have key : ∀ m : BitVec 3,
        (["MASK_NORMAL", "MASK_FROZEN", "MASK_BLACK", "MASK_COLOR"].getD m.toNat "MASK_WHITE" = "MASK_NORMAL" ↔ m = 0)
        ∧ (["MASK_NORMAL", "MASK_FROZEN", "MASK_BLACK", "MASK_COLOR"].getD m.toNat "MASK_WHITE" = "MASK_FROZEN" ↔ m = 1)
        ∧ (["MASK_NORMAL", "MASK_FROZEN", "MASK_BLACK", "MASK_COLOR"].getD m.toNat "MASK_WHITE" = "MASK_BLACK" ↔ m = 2)
        ∧ (["MASK_NORMAL", "MASK_FROZEN", "MASK_BLACK", "MASK_COLOR"].getD m.toNat "MASK_WHITE" = "MASK_COLOR" ↔ m = 3)
        ∧ (["MASK_NORMAL", "MASK_FROZEN", "MASK_BLACK", "MASK_COLOR"].getD m.toNat "MASK_WHITE" = "MASK_WHITE"
          ↔ m.getLsbD 2 = true)
        ∧ ["MASK_NORMAL", "MASK_FROZEN", "MASK_BLACK", "MASK_COLOR"].getD m.toNat "MASK_WHITE" ∈
          ["MASK_NORMAL", "MASK_FROZEN", "MASK_BLACK", "MASK_COLOR", "MASK_WHITE"] := by decide
    obtain ⟨k0, k1, k2, k3, k4, k5⟩ := key (w.extractLsb' 15 3)
    have hrow : ∀ n, (Code.mask w).row = some n ↔ ["MASK_NORMAL", "MASK_FROZEN", "MASK_BLACK", "MASK_COLOR"].getD
        (w.extractLsb' 15 3).toNat "MASK_WHITE" = n := fun n => by simp only [Code.row, Option.some.injEq]
    rw [hrow]
    rcases h with rfl | rfl | rfl | rfl | rfl | rfl | rfl | rfl | rfl | rfl | rfl | rfl | rfl | h
    case inr.inr.inr.inr.inr.inr.inr.inr.inl => exact (selects_mask w 0 _ rfl).trans k0.symm
    case inr.inr.inr.inr.inr.inr.inr.inr.inr.inl => exact (selects_mask w 1 _ rfl).trans k1.symm
    case inr.inr.inr.inr.inr.inr.inr.inr.inr.inr.inl => exact (selects_mask w 2 _ rfl).trans k2.symm
    case inr.inr.inr.inr.inr.inr.inr.inr.inr.inr.inr.inl => exact (selects_mask w 3 _ rfl).trans k3.symm
    case inr.inr.inr.inr.inr.inr.inr.inr.inr.inr.inr.inr.inl => exact (selects_white w).trans k4.symm
    case inr.inr.inr.inr.inr.inr.inr.inr.inr.inr.inr.inr.inr =>
      have hs : (Code.mask w).selects r.2 = false
          ∧ r.1 ∉ ["MASK_NORMAL", "MASK_FROZEN", "MASK_BLACK", "MASK_COLOR", "MASK_WHITE"] := by
        rcases h with rfl | rfl | rfl | rfl | rfl | rfl | rfl | rfl | rfl | rfl | rfl | rfl | rfl | rfl | rfl | rfl | rfl
          | rfl | rfl | rfl | rfl | rfl | rfl | rfl <;> exact ⟨rfl, by decide⟩
      rw [hs.1]
      exact ⟨nofun, fun hr => absurd (hr ▸ k5) hs.2⟩
    all_goals exact ⟨nofun, fun hr => absurd (hr ▸ k5) (by decide)⟩
  | seq w =>
    revert w
    rcases h with rfl | rfl | rfl | rfl | rfl | rfl | rfl | rfl | rfl | rfl | rfl | rfl | rfl | rfl | rfl | rfl | rfl
      | rfl | rfl | rfl | rfl | rfl | rfl | rfl | rfl | rfl | rfl | rfl | rfl | rfl | rfl | rfl | rfl | rfl | rfl | rfl
      | rfl <;> decide

end Sys2Proof
end

