-- ==== Sys2Proof/Laws/Palette.lean ====
section
/-! SUPPORT. What PAL_RELOAD can do: every entry of the store it rebuilds, and nothing else. -/

namespace Sys2Proof.Machine

variable {s t : State} {v : Views}

/-- The offset of a palette entry's colour is twice its entry number (R75, R125). -/
theorem palOffset_entry (e6 : BitVec 6) (raw : BitVec 15) :
    palOffset (colorArgOf e6 raw).half (colorArgOf e6 raw).p (colorArgOf e6 raw).e = 2 * e6.toNat := by
  have : ∀ e : BitVec 6, palOffset (e.getLsbD 5) (e.extractLsb' 2 3) (e.extractLsb' 0 2) = 2 * e.toNat := by decide
  exact this e6

theorem palOffset_inj {h k : Bool} {p q : BitVec 3} {e f : BitVec 2} :
    palOffset h p e = palOffset k q f ↔ h = k ∧ p = q ∧ e = f := by
  have he := e.isLt
  have hf := f.isLt
  have hp := p.isLt
  have hq := q.isLt
  constructor
  · intro heq
    cases h <;> cases k <;> simp only [palOffset, Bool.false_eq_true, if_false, if_true] at heq
    · exact ⟨rfl, BitVec.eq_of_toNat_eq (by omega), BitVec.eq_of_toNat_eq (by omega)⟩
    · omega
    · omega
    · exact ⟨rfl, BitVec.eq_of_toNat_eq (by omega), BitVec.eq_of_toNat_eq (by omega)⟩
  · rintro ⟨rfl, rfl, rfl⟩; rfl

theorem palOffset_lt (h : Bool) (p : BitVec 3) (e : BitVec 2) : palOffset h p e + 1 < 128 ∧ palOffset h p e % 2 = 0 := by
  have := e.isLt
  have := p.isLt
  cases h <;> simp only [palOffset, Bool.false_eq_true, if_false, if_true] <;> omega

/-- The entry a colour call writes, told by its offset in palette memory. -/
theorem storeAt_callColor_offset (s : State) (e6 : BitVec 6) (raw : BitVec 15) (h : Bool) (p : BitVec 3) (e : BitVec 2) :
    (s.callColor (colorArgOf e6 raw)).storeAt h p e =
      if palOffset h p e = 2 * e6.toNat then colorLut s.cfg raw else s.storeAt h p e := by
  rw [storeAt_callColor, ← palOffset_entry e6 raw]
  simp only [palOffset_inj]
  rfl

/-- Rebuilding the listed entries when COLOR: those entries from their byte pairs, and nothing else (R185). -/
theorem reloadEntries_ok (l : List (BitVec 6)) (s : State) (hm : s.cfg.hwMode = .color) (hv : s.views = some v) :
    ∃ t, reloadEntries l s = .ok t
      ∧ t = { s with bgpal := t.bgpal, objpal := t.objpal, colorArg := t.colorArg }
      ∧ (l ≠ [] → t.colorArg = .clear)
      ∧ ∀ h p e, t.storeAt h p e = if palOffset h p e ∈ l.map (fun e6 => 2 * e6.toNat)
          then colorLut s.cfg (rawAt v.palram (palOffset h p e)) else s.storeAt h p e := by
  induction l generalizing s with
  | nil => exact ⟨s, rfl, rfl, fun h => absurd rfl h, fun h p e => by simp⟩
  | cons e6 l ih =>
    have hf := callColor_frame s (colorArgOf e6 (rawAt v.palram (2 * e6.toNat)))
    generalize hu : s.callColor (colorArgOf e6 (rawAt v.palram (2 * e6.toNat))) = u at hf
    have hcfg : u.cfg = s.cfg := by rw [hf]
    have hviews : u.views = s.views := by rw [hf]
    obtain ⟨t, h1, h2, h3, h4⟩ := ih u (hcfg ▸ hm) (hviews.trans hv)
    refine ⟨t, ?_, ?_, fun _ => ?_, fun h p e => ?_⟩
    · rw [reloadEntries, readRaw_ok hm hv, ok_bind, hu, h1]
    · rw [h2, hf]
    · by_cases hl : l = []
      · subst hl
        cases (show t = u by simpa [reloadEntries] using h1.symm)
        rw [hf]
      · exact h3 hl
    · rw [h4, hcfg, ← hu, storeAt_callColor_offset]
      simp only [List.map_cons, List.mem_cons]
      by_cases hin : palOffset h p e ∈ l.map fun e6 => 2 * e6.toNat
      · rw [if_pos hin, if_pos (.inr hin)]
      · rw [if_neg hin]
        by_cases heq : palOffset h p e = 2 * e6.toNat
        · rw [if_pos heq, if_pos (.inl heq), heq]
        · rw [if_neg heq, if_neg (by tauto)]

/-- Every entry of the store has its number in the list PAL_RELOAD goes through. -/
theorem mem_colorEntries (h : Bool) (p : BitVec 3) (e : BitVec 2) :
    palOffset h p e ∈ colorEntries.map fun e6 => 2 * e6.toNat := by
  have hlt := palOffset_lt h p e
  simp only [colorEntries, List.map_map, List.mem_map, List.mem_range, Function.comp_apply, BitVec.toNat_ofNat]
  exact ⟨palOffset h p e / 2, by omega, by omega⟩

/-- The monochrome store rebuilt: the three palettes in use from their latches, the others as they were (R185, R41). -/
theorem storeAt_reloadMono (s : State) (h : Bool) (p : BitVec 3) (e : BitVec 2) :
    s.reloadMono.storeAt h p e =
      if h = true ∧ p = 1 then monoRamp s.cfg .obj1 (monoEntry s.regs.obp1 e)
      else if h = true ∧ p = 0 then monoRamp s.cfg .obj0 (monoEntry s.regs.obp0 e)
      else if h = false ∧ p = 0 then monoRamp s.cfg .bg (monoEntry s.regs.bgp e)
      else s.storeAt h p e := by
  unfold State.reloadMono
  generalize ha : s.callMono s.regs.bgp .bg = a
  generalize hb : a.callMono s.regs.obp0 .obj0 = b
  have hac : a.cfg = s.cfg := by rw [← ha, callMono_frame]
  have hbc : b.cfg = s.cfg := by rw [← hb, callMono_frame, hac]
  rw [storeAt_callMono, hbc, ← hb, storeAt_callMono, hac, ← ha, storeAt_callMono]
  rfl

theorem reloadMono_frame (s : State) :
    s.reloadMono = { s with bgpal := s.reloadMono.bgpal, objpal := s.reloadMono.objpal, monoArg := .clear } := by
  unfold State.reloadMono
  generalize ha : s.callMono s.regs.bgp .bg = a
  generalize hb : a.callMono s.regs.obp0 .obj0 = b
  rw [callMono_frame b, ← hb, callMono_frame a, ← ha, callMono_frame s]

end Sys2Proof.Machine
end

