-- ==== Sys2Proof/Laws/Events.lean ====
section
/-! SUPPORT. What the timed events and their replay can do: which records apply, what one event leaves, and what a whole
replay leaves of a sorted log. -/

namespace Sys2Proof.Machine

variable {s t : State} {v : Views} {w : BitVec 64}

/-! ### Which records stand in which log (R112, R130) -/

theorem registerRecord_iff : registerRecord w = true ↔ recTarget w < 7 ∧ recZero w = 0 ∧ recOffset w = 0 := by
  unfold registerRecord decodeEvt
  generalize recTarget w = k
  generalize recZero w = z
  generalize recOffset w = o
  by_cases hz : z = 0 <;> by_cases ho : o = 0 <;> simp only [hz, ho, if_true, if_false, ne_eq, not_true, not_false_eq_true]
  all_goals
    have hk : ∀ k : BitVec 4, k = 7 ∨ k = 8 ∨ k = 9 ∨ k = 10 ∨ k = 11 ∨ k = 12 ∨ k = 13 ∨ k = 14 ∨ k = 15
        ∨ k = 0 ∨ k = 1 ∨ k = 2 ∨ k = 3 ∨ k = 4 ∨ k = 5 ∨ k = 6 := by decide
    rcases hk k with rfl | rfl | rfl | rfl | rfl | rfl | rfl | rfl | rfl | rfl | rfl | rfl | rfl | rfl | rfl | rfl <;>
      simp [registerEvent]

theorem paletteRecord_iff {m : HwMode} : paletteRecord m w = true ↔ recTarget w = 7 ∧ recZero w = 0 ∧ m = .color := by
  unfold paletteRecord decodeEvt
  by_cases hk : recTarget w = 7
  · by_cases hz : recZero w = 0
    · simp [hk, hz]
    · rw [if_pos hk, if_neg hz]; simp only [hk, hz, false_and, and_false, Bool.false_eq_true]
  · simp only [hk, if_false]
    split
    · next i h =>
      split at h
      · cases h
      · split at h
        · cases h
        · split at h
          · cases h
          · unfold registerEvent at h
            split_ifs at h <;> cases h
    · simp

/-! ### One event -/

/-- The state after a register event (R152 to R158). -/
def State.registerEvent (s : State) (w : BitVec 64) : State :=
  let u := { s with regs := latch s.regs w }
  if recTarget w = 4 then u.monoLatched (recData w) .bg
  else if recTarget w = 5 then u.monoLatched (recData w) .obj0
  else if recTarget w = 6 then u.monoLatched (recData w) .obj1
  else u

/-- A record that may stand in RLOG is applied, and leaves that state (R151). -/
theorem applyRegister_eq (h : registerRecord w = true) :
    ∃ i, decodeEvt w = .ok i ∧ ∀ s, applyRegisterEvent i s = .next (s.registerEvent w) := by
  obtain ⟨hk, hz, ho⟩ := registerRecord_iff.1 h
  have hk' : ∀ k : BitVec 4, k < 7 → k = 0 ∨ k = 1 ∨ k = 2 ∨ k = 3 ∨ k = 4 ∨ k = 5 ∨ k = 6 := by decide
  unfold decodeEvt
  rcases hk' _ hk with h | h | h | h | h | h | h <;>
    simp only [h, hz, ho, Sys2Proof.registerEvent] <;>
    exact ⟨_, rfl, fun s => by simp [applyRegisterEvent, State.registerEvent, h, latch, State.setRegs, execEvLcdc,
      execEvScx, execEvScy, execEvWx, execEvBgp, execEvObp0, execEvObp1]⟩

theorem monoLatched_frame (s : State) (d : Byte) (m : MonoTarget) :
    s.monoLatched d m = { s with
      bgpal := (s.monoLatched d m).bgpal, objpal := (s.monoLatched d m).objpal,
      monoArg := (s.monoLatched d m).monoArg } := by
  unfold State.monoLatched
  split
  · rw [callMono_frame]
  · rfl

theorem storeAt_monoLatched (s : State) (d : Byte) (m : MonoTarget) (h : Bool) (p : BitVec 3) (e : BitVec 2) :
    (s.monoLatched d m).storeAt h p e =
      if s.cfg.hwMode = .mono ∧ h = (monoDest m).1 ∧ p = (monoDest m).2 then monoRamp s.cfg m (monoEntry d e)
      else s.storeAt h p e := by
  unfold State.monoLatched
  split
  · next hm => simp [storeAt_callMono, hm]
  · next hm => simp [hm]

/-- A register event changes the latches, and of the rest only the palette store and its operand latch. -/
theorem registerEvent_frame (s : State) (w : BitVec 64) :
    s.registerEvent w = { s with
      regs := latch s.regs w, bgpal := (s.registerEvent w).bgpal, objpal := (s.registerEvent w).objpal,
      monoArg := (s.registerEvent w).monoArg } := by
  unfold State.registerEvent
  dsimp only
  split
  · rw [monoLatched_frame]
  · split
    · rw [monoLatched_frame]
    · split
      · rw [monoLatched_frame]
      · rfl

/-- A register event writes no latch but those of R152 to R158: window Y stays (R27). -/
theorem latch_wy (r : Regs) (w : BitVec 64) : (latch r w).wy = r.wy := by
  unfold latch; dsimp only; split <;> rfl

theorem applyPalette_decode {m : HwMode} (h : paletteRecord m w = true) :
    decodeEvt w = .ok (.evPalbyte (recClock w) (recOffset w) (recData w)) := by
  obtain ⟨hk, hz, _⟩ := paletteRecord_iff.1 h
  simp [decodeEvt, hk, hz]

theorem entryOfOffset_toNat (off : BitVec 7) : 2 * (entryOfOffset off).toNat = off.toNat / 2 * 2 := by
  revert off; decide

/-- A palette-byte event: the byte, the colour of its pair, and nothing else (R159). -/
theorem evPalbyte_ok (c : BitVec 32) (off : BitVec 7) (d : Byte) (hm : s.cfg.hwMode = .color) (hv : s.views = some v) :
    ∃ t, execEvPalbyte c off d s = .next t
      ∧ t = { s with
          views := some { v with palram := memSet off.toNat d v.palram }, bgpal := t.bgpal, objpal := t.objpal,
          colorArg := .clear }
      ∧ ∀ h p e, t.storeAt h p e = if palOffset h p e = off.toNat / 2 * 2
          then colorLut s.cfg (rawAt (memSet off.toNat d v.palram) (off.toNat / 2 * 2)) else s.storeAt h p e := by
  unfold execEvPalbyte
  rw [writePalram_ok hm hv, ok_bind]
  generalize hu : ({ s with views := some { v with palram := memSet off.toNat d v.palram } } : State) = u
  have hr := readRaw_ok (s := u) (v := { v with palram := memSet off.toNat d v.palram }) (by rw [← hu]; exact hm)
    (by rw [← hu]) (entryOfOffset off)
  rw [hr, ok_bind]
  refine ⟨_, rfl, ?_, fun h p e => ?_⟩
  · rw [callColor_frame u, ← hu]
  · rw [storeAt_callColor_offset, entryOfOffset_toNat, ← hu]
    rfl

/-! ### The replay (R151, R163) -/

/-- What the register replay keeps: anything that every event applied, and moving the cursor on, keeps. -/
theorem replayRegisters_keeps {P : State → Prop} {log : List (BitVec 64)}
    (hP : ∀ s t i, P s → applyRegisterEvent i s = .next t → P { t with rp := t.rp + 1 }) (hs : P s)
    (h : replayRegisters log s = .next t) : P t := by
  induction log generalizing s with
  | nil => cases h; exact hs
  | cons w log ih =>
    simp only [replayRegisters] at h
    split at h
    · split at h
      · obtain ⟨u, hu, hrest⟩ := andThen_eq_next.1 h
        exact ih (hP _ _ _ hs hu) hrest
      · cases h
    · cases h; exact hs

/-- A register event, whatever the log: the latches but window Y, and the palette store with its operand latch. -/
theorem applyRegister_frame {i : Instr} (h : applyRegisterEvent i s = .next t) :
    t = { s with regs := t.regs, bgpal := t.bgpal, objpal := t.objpal, monoArg := t.monoArg }
      ∧ t.regs.wy = s.regs.wy := by
  cases i <;> simp only [applyRegisterEvent, execEvLcdc, execEvScx, execEvScy, execEvWx, execEvBgp, execEvObp0,
    execEvObp1, Host.Outcome.next.injEq, reduceCtorEq] at h <;> subst h <;>
    first | exact ⟨rfl, rfl⟩ | (rw [monoLatched_frame]; exact ⟨rfl, rfl⟩)

/-- The register replay of a sorted log: exactly the events whose clock has come, in order (R151, R162). -/
theorem replayRegisters_ok (log : List (BitVec 64)) (s : State) (hlog : LogOk registerRecord log) :
    ∃ t n, replayRegisters log s = .next t ∧ n ≤ log.length ∧ t.rp = s.rp + n
      ∧ t = { s with
          regs := (log.take n).foldl latch s.regs, bgpal := t.bgpal, objpal := t.objpal, monoArg := t.monoArg, rp := t.rp }
      ∧ (∀ w ∈ log.take n, (recClock w).toNat ≤ s.clk) ∧ ∀ w ∈ log.drop n, s.clk < (recClock w).toNat := by
  induction log generalizing s with
  | nil => exact ⟨s, 0, rfl, Nat.le_refl _, rfl, rfl, by simp, by simp⟩
  | cons w log ih =>
    obtain ⟨hgood, hsort⟩ := hlog
    obtain ⟨hw, hsort⟩ := List.pairwise_cons.1 hsort
    obtain ⟨i, hi, ha⟩ := applyRegister_eq (hgood w List.mem_cons_self)
    simp only [replayRegisters]
    split
    · next hc =>
      rw [hi]
      simp only [ha, andThen]
      have hf := registerEvent_frame s w
      generalize s.registerEvent w = u at hf
      obtain ⟨t, n, h1, h2, h3, h4, h5, h6⟩ := ih { u with rp := u.rp + 1 }
        ⟨fun x hx => hgood x (List.mem_cons_of_mem _ hx), hsort⟩
      have hrp : u.rp = s.rp := by rw [hf]
      have hclk : u.clk = s.clk := by rw [hf]
      have hregs : u.regs = latch s.regs w := by rw [hf]
      refine ⟨t, n + 1, h1, by simpa using h2, by rw [h3]; show u.rp + 1 + n = _; omega, ?_, ?_, ?_⟩
      · rw [h4, hf]
        simp only [List.take_succ_cons, List.foldl_cons]
      · intro x hx
        rcases List.mem_cons.1 (by simpa using hx) with rfl | hx
        · exact hc
        · exact hclk ▸ h5 x hx
      · intro x hx
        exact hclk ▸ h6 x (by simpa using hx)
    · next hc =>
      refine ⟨s, 0, rfl, Nat.zero_le _, rfl, rfl, by simp, fun x hx => ?_⟩
      rcases List.mem_cons.1 (by simpa using hx) with rfl | hx
      · omega
      · have := hw x hx; omega

/-- What the palette replay keeps: anything that every event applied, and moving the cursor on, keeps. -/
theorem replayPalette_keeps {P : State → Prop} {log : List (BitVec 64)}
    (hP : ∀ s t i, P s → applyPaletteEvent i s = .next t → P { t with pp := t.pp + 1 }) (hs : P s)
    (h : replayPalette log s = .next t) : P t := by
  induction log generalizing s with
  | nil => cases h; exact hs
  | cons w log ih =>
    simp only [replayPalette] at h
    split at h
    · split at h
      · obtain ⟨u, hu, hrest⟩ := andThen_eq_next.1 h
        exact ih (hP _ _ _ hs hu) hrest
      · cases h
    · cases h; exact hs

/-- A palette-byte event that goes on had palette memory to write (R70, R74). -/
theorem evPalbyte_next {c : BitVec 32} {off : BitVec 7} {d : Byte} (h : execEvPalbyte c off d s = .next t) :
    s.cfg.hwMode = .color ∧ ∃ v, s.views = some v := by
  cases hm : s.cfg.hwMode
  · simp [execEvPalbyte, State.writePalram, Space.present, hm, ofExcept, bind, Except.bind] at h
  · cases hv : s.views with
    | none => simp [execEvPalbyte, State.writePalram, Space.present, hm, hv, ofExcept, bind, Except.bind] at h
    | some v => exact ⟨rfl, v, rfl⟩

/-- A palette event, whatever the log: one byte of palette memory, and the palette store with its operand latch. -/
theorem applyPalette_frame {i : Instr} (h : applyPaletteEvent i s = .next t) :
    ∃ v off d, s.views = some v ∧ s.cfg.hwMode = .color ∧ off < 128
      ∧ t = { s with
          views := some { v with palram := memSet off d v.palram }, bgpal := t.bgpal, objpal := t.objpal,
          colorArg := .clear } := by
  cases i <;> simp only [applyPaletteEvent, reduceCtorEq] at h
  next c off d =>
    obtain ⟨hm, v, hv⟩ := evPalbyte_next h
    obtain ⟨u, hu, hf, _⟩ := evPalbyte_ok c off d hm hv
    rw [hu] at h
    cases h
    exact ⟨v, off.toNat, d, hv, hm, off.isLt, hf⟩

/-- The palette replay of a sorted log: exactly the events whose clock lies before the line's, in order (R151, R162). -/
theorem replayPalette_ok (log : List (BitVec 64)) (s : State) (hv : s.views = some v)
    (hlog : LogOk (paletteRecord s.cfg.hwMode) log) :
    ∃ t n, replayPalette log s = .next t ∧ n ≤ log.length ∧ t.pp = s.pp + n
      ∧ t = { s with
          views := some { v with
            palram := (log.take n).foldl (fun m e => memSet (recOffset e).toNat (recData e) m) v.palram },
          bgpal := t.bgpal, objpal := t.objpal, colorArg := t.colorArg, pp := t.pp }
      ∧ (∀ w ∈ log.take n, (recClock w).toNat < s.clk) ∧ ∀ w ∈ log.drop n, s.clk ≤ (recClock w).toNat := by
  induction log generalizing s v with
  | nil => exact ⟨s, 0, rfl, Nat.le_refl _, rfl, by simp [← hv], by simp, by simp⟩
  | cons w log ih =>
    obtain ⟨hgood, hsort⟩ := hlog
    obtain ⟨hw, hsort⟩ := List.pairwise_cons.1 hsort
    have hrec := hgood w List.mem_cons_self
    have hm : s.cfg.hwMode = .color := (paletteRecord_iff.1 hrec).2.2
    simp only [replayPalette]
    split
    · next hc =>
      rw [applyPalette_decode hrec]
      obtain ⟨u, hu, hf, _⟩ := evPalbyte_ok (recClock w) (recOffset w) (recData w) hm hv
      simp only [applyPaletteEvent, hu, andThen]
      have hcfg : u.cfg = s.cfg := by rw [hf]
      have hpp : u.pp = s.pp := by rw [hf]
      have hclk : u.clk = s.clk := by rw [hf]
      obtain ⟨t, n, h1, h2, h3, h4, h5, h6⟩ := ih { u with pp := u.pp + 1 } (by show u.views = _; rw [hf])
        ⟨fun x hx => by show paletteRecord u.cfg.hwMode x = true; rw [hcfg]; exact hgood x (List.mem_cons_of_mem _ hx),
          hsort⟩
      refine ⟨t, n + 1, h1, by simpa using h2, by rw [h3]; show u.pp + 1 + n = _; omega, ?_, ?_, ?_⟩
      · rw [h4, hf]
        simp only [List.take_succ_cons, List.foldl_cons]
      · intro x hx
        rcases List.mem_cons.1 (by simpa using hx) with rfl | hx
        · exact hc
        · exact hclk ▸ h5 x hx
      · intro x hx
        exact hclk ▸ h6 x (by simpa using hx)
    · next hc =>
      refine ⟨s, 0, rfl, Nat.zero_le _, rfl, by simp [← hv], by simp, fun x hx => ?_⟩
      rcases List.mem_cons.1 (by simpa using hx) with rfl | hx
      · omega
      · have := hw x hx; omega

end Sys2Proof.Machine
end

