-- ==== Sys2Proof/Laws/Fetch.lean ====
section
/-! SUPPORT. What the fetch stage can do: with the views bound it never stops, and it reads the bytes R244 names. -/

namespace Sys2Proof.Machine

variable {s t : State} {v : Views}

/-! ### Pixels of an unpacked row (R186 to R190) -/

theorem rowPixel_unpack (i : BitVec 16) (k : BitVec 3) : rowPixel (unpack i) k = laneBits i (7 - k.toNat) := by
  have hk : k = 0 ∨ k = 1 ∨ k = 2 ∨ k = 3 ∨ k = 4 ∨ k = 5 ∨ k = 6 ∨ k = 7 := by revert k; decide
  apply BitVec.eq_of_getLsbD_eq; intro j hj
  have hj : j = 0 ∨ j = 1 := by omega
  rcases hk with rfl | rfl | rfl | rfl | rfl | rfl | rfl | rfl <;> rcases hj with rfl | rfl <;>
    simp only [rowPixel, unpack, laneBits, BitVec.getLsbD_extractLsb', BitVec.getLsbD_append] <;> simp

theorem rowPixel_unpackFlip (i : BitVec 16) (k : BitVec 3) : rowPixel (unpackFlip i) k = laneBits i k.toNat := by
  have hk : k = 0 ∨ k = 1 ∨ k = 2 ∨ k = 3 ∨ k = 4 ∨ k = 5 ∨ k = 6 ∨ k = 7 := by revert k; decide
  apply BitVec.eq_of_getLsbD_eq; intro j hj
  have hj : j = 0 ∨ j = 1 := by omega
  rcases hk with rfl | rfl | rfl | rfl | rfl | rfl | rfl | rfl <;> rcases hj with rfl | rfl <;>
    simp only [rowPixel, unpackFlip, laneBits, BitVec.getLsbD_extractLsb', BitVec.getLsbD_append] <;> simp

/-- Pixel `k` of an unpacked row is bit `7 - k` of its two bytes, or bit `k` when flipped (R216, R244). -/
theorem rowPixel_unpackRow (flip : Bool) (b : Byte × Byte) (k : BitVec 3) :
    rowPixel (unpackRow flip b) k = laneBits (b.2 ++ b.1) (if flip then k.toNat else 7 - k.toNat) := by
  cases flip
  · exact rowPixel_unpack ..
  · exact rowPixel_unpackFlip ..

/-! ### A tile row (R244) -/

/-- The map attribute byte that a bound view gives (R117). -/
theorem mapAttr_ok (hv : s.views = some v) {cell : Nat} (hc : cell < 0x2000) :
    s.mapAttr cell = .ok (if s.cfg.hwMode = .color then memGet v.vram1 cell else 0) := by
  unfold State.mapAttr
  cases hm : s.cfg.hwMode
  · simp
  · simp only [if_true]
    exact readByte_ok (by simp [Space.present, hm]) hv (by simpa [Space.size] using hc)

/-- With the views bound a tile row is always read: `TILE_PIXEL` as far as the row (R244). -/
theorem tileRow_ok (hv : s.views = some v) (second : Bool) {row col trow : Nat} (hr : row < 32) (hc : col < 32)
    (ht : trow < 8) :
    let cell := cellAddr (mapBase second) row col
    let a : Byte := if s.cfg.hwMode = .color then memGet v.vram1 cell else 0
    let addr := tileRowAddr (lcdcTdata s.regs.lcdc) (memGet v.vram0 cell) (mattrVflip a) trow
    s.tileRow (mapBase second) row col trow = .ok (unpackRow (mattrHflip a)
      (memGet (v.get (mattrBank a)) addr, memGet (v.get (mattrBank a)) (addr + 1)), a) := by
  intro cell a addr
  have hcell : cell < 0x2000 := (cellAddr_lt hr hc).2
  have haddr := (tileRowAddr_lt (lcdcTdata s.regs.lcdc) (memGet v.vram0 cell) (mattrVflip a) ht).1
  have hbank : (mattrBank a).present s.cfg.hwMode = true ∧ (mattrBank a).size = 8192 := by
    by_cases hm : s.cfg.hwMode = .color
    · unfold mattrBank; split <;> simp [Space.present, Space.size, hm]
    · have : a = 0 := if_neg hm
      simp [this, mattrBank, Space.present, Space.size]
  unfold State.tileRow
  rw [readByte_ok (sp := .vram0) rfl hv (by simpa [Space.size] using hcell), ok_bind, mapAttr_ok hv hcell, ok_bind,
    readPair_ok hbank.1 hv (by rw [hbank.2]; exact Nat.lt_of_lt_of_le haddr (by omega)), ok_bind]
  rfl

/-- A tile row depends on the configuration, the views and the latches alone. -/
theorem tileRow_congr (hc : s.cfg = t.cfg) (hv : s.views = t.views) (hr : s.regs = t.regs) (base row col trow : Nat) :
    s.tileRow base row col trow = t.tileRow base row col trow := by
  simp only [State.tileRow, State.mapAttr, readByte_congr hc hv, readPair_congr hc hv, hr, hc]

/-! ### Plane positions (R241, R248, R249) -/

theorem bgPlane_lt (r : Regs) (ly x : Nat) : (bgPlane r ly x).1 < 256 ∧ (bgPlane r ly x).2 < 256 :=
  ⟨Nat.mod_lt _ (by omega), Nat.mod_lt _ (by omega)⟩

theorem winActive_iff {r : Regs} {ly x : Nat} :
    winActive r ly x = true ↔ lcdcWen r.lcdc = true ∧ r.wy.toNat ≤ ly ∧ r.wx.toNat ≤ x + 7 := by
  simp only [winActive, Bool.and_eq_true, decide_eq_true_eq, and_assoc]
  have : winLeft r.wx ≤ x ↔ r.wx.toNat ≤ x + 7 := by simp only [winLeft, winXBias]; omega
  simp only [this]

/-- Inside an active window the plane position counts from its top left corner, without scrolling (R249). -/
theorem winPlane_eq {r : Regs} {ly x : Nat} (h : winActive r ly x = true) :
    winPlane r ly x = (ly - r.wy.toNat, x + 7 - r.wx.toNat) := by
  have := winActive_iff.1 h
  simp only [winPlane, winLeft, winXBias, Prod.mk.injEq, true_and]
  omega

theorem winPlane_lt {r : Regs} {ly x : Nat} (h : winActive r ly x = true) (hl : ly < lines) (hx : x < width) :
    (winPlane r ly x).1 < 256 ∧ (winPlane r ly x).2 < 256 := by
  simp only [lines, width] at *
  rw [winPlane_eq h]
  constructor <;> dsimp only <;> omega

/-- The window, once active on a line, stays active to its end (R251). -/
theorem winActive_mono {r : Regs} {ly x y : Nat} (h : winActive r ly x = true) (hxy : x ≤ y) :
    winActive r ly y = true := by
  rw [winActive_iff] at *
  exact ⟨h.1, h.2.1, by omega⟩

/-! ### The two sources (R240, R241, R250) -/

/-- `TILE_PIXEL` always answers with the views bound (R244). -/
theorem tilePixel_ok (hv : s.views = some v) (second : Bool) {p : Nat × Nat} (h1 : p.1 < 256) (h2 : p.2 < 256) :
    ∃ o, s.tilePixel (mapBase second) p = .ok o ∧ o.on = true := by
  unfold State.tilePixel
  rw [tileRow_ok hv second (by omega) (by omega) (by omega)]
  exact ⟨_, rfl, rfl⟩

theorem bgPixel_off (h : lcdcBen s.regs.lcdc = false) : s.bgPixel = .ok ⟨0, 0, false, false⟩ := by
  simp [State.bgPixel, h]

theorem bgPixel_ok (hv : s.views = some v) : ∃ o, s.bgPixel = .ok o := by
  unfold State.bgPixel
  split
  · exact (tilePixel_ok hv _ (bgPlane_lt ..).1 (bgPlane_lt ..).2).imp fun _ h => h.1
  · exact ⟨_, rfl⟩

theorem winPixel_ok (hv : s.views = some v) (hw : winActive s.regs s.ly s.x = true) (hl : s.ly < lines)
    (hx : s.x < width) : ∃ o, s.winPixel = .ok o :=
  (tilePixel_ok hv _ (winPlane_lt hw hl hx).1 (winPlane_lt hw hl hx).2).imp fun _ h => h.1

/-- `FETCH` always answers at a position of the screen with the views bound (R240, R251). -/
theorem fetchValue_ok (hv : s.views = some v) (hl : s.ly < lines) (hx : s.x < width) : ∃ o, s.fetchValue = .ok o := by
  unfold State.fetchValue
  split
  · next h => exact winPixel_ok hv h hl hx
  · exact bgPixel_ok hv

/-- `FETCH` as a part of a pixel puts its value into the transients (R240). -/
theorem fetchPixel_eq (s : State) : s.fetchPixel = s.fetchValue >>= fun o => .ok (s.setBgPixel o) := by
  unfold State.fetchPixel State.fetchValue State.winFetch State.bgFetch
  split <;> rfl

/-- `FETCH` depends on the configuration, the views, the latches and the position alone. -/
theorem fetchValue_congr (hc : s.cfg = t.cfg) (hv : s.views = t.views) (hr : s.regs = t.regs) (hl : s.ly = t.ly)
    (hx : s.x = t.x) : s.fetchValue = t.fetchValue := by
  simp only [State.fetchValue, State.winPixel, State.bgPixel, State.tilePixel, tileRow_congr hc hv hr, hr, hl, hx]

/-! ### The rolling cursor (R253, R254) -/

/-- A refetch always answers with the views bound (R253). -/
theorem cursorRow_ok (hv : s.views = some v) (win : Bool) {row col trow : Nat} (hr : row < 32) (hc : col < 32)
    (ht : trow < 8) : ∃ o, s.cursorRow win row col trow = .ok o := by
  unfold State.cursorRow
  split
  · exact ⟨_, tileRow_ok hv _ hr hc ht⟩
  · split
    · exact ⟨_, tileRow_ok hv _ hr hc ht⟩
    · exact ⟨_, rfl⟩

theorem refetch_ok (hv : s.views = some v) (win : Bool) (row col : BitVec 5) {trow : Nat} (fine : BitVec 3)
    (ht : trow < 8) : ∃ c, s.refetch win row col trow fine = .ok c := by
  obtain ⟨o, ho⟩ := cursorRow_ok hv win row.isLt col.isLt ht
  exact ⟨⟨row, col, o.1, mattrPal o.2, mattrPrio o.2, fine, win⟩, by simp only [State.refetch, ho]; rfl⟩

/-- Rolling the cursor never stops with the views bound, whatever the cursor holds (R253, R254). -/
theorem rollCursor_ok (hv : s.views = some v) : ∃ c, s.rollCursor = .ok c := by
  simp only [State.rollCursor, State.aimCursor]
  split
  · exact refetch_ok hv _ _ _ _ (Nat.mod_lt _ (by omega))
  · split
    · exact refetch_ok hv _ _ _ _ (Nat.mod_lt _ (by omega))
    · exact ⟨_, rfl⟩

end Sys2Proof.Machine
end

