-- ==== Sys2Proof/Laws/Objects.lean ====
section
/-! SUPPORT. What sprite search can do: with the views bound it never stops, and it finds the first ten entries that
cover the line. -/

namespace Sys2Proof.Machine

variable {s t : State} {v : Views}

/-- The four bytes of an OAM entry that a view holds (R115). -/
def Views.oamEntry (v : Views) (j : Nat) : OamEntry :=
  ⟨memGet v.oam (4 * j), memGet v.oam (4 * j + 1), memGet v.oam (4 * j + 2), memGet v.oam (4 * j + 3)⟩

theorem readOam_ok (hv : s.views = some v) {j : Nat} (hj : j < oamEntries) : s.readOam j = .ok (v.oamEntry j) := by
  have h : ∀ k, k < 4 → s.readByte .oam (4 * j + k) = .ok (memGet v.oam (4 * j + k)) := fun k hk =>
    readByte_ok (sp := .oam) rfl hv (by simp only [Space.size, oamEntries] at *; omega)
  simp only [State.readOam]
  rw [show 4 * j = 4 * j + 0 from rfl, h 0 (by omega), ok_bind, h 1 (by omega), ok_bind, h 2 (by omega), ok_bind,
    h 3 (by omega), ok_bind]
  rfl

theorem objBank_present (m : HwMode) (a : Byte) : (objBank m a).present m = true ∧ (objBank m a).size = 8192 := by
  unfold objBank; split
  · next h => simp [Space.present, Space.size, h.1]
  · exact ⟨rfl, rfl⟩

/-- What sprite search makes of entry `j` of bound views (R211, R222). -/
def State.entryFound (s : State) (v : Views) (j : Nat) : Option Candidate :=
  let o := v.oamEntry j
  let bank := v.get (objBank s.cfg.hwMode o.attr)
  if s.entryCovers o then
    some (candidateOf s.cfg.hwMode o (memGet bank (s.entryAddr o), memGet bank (s.entryAddr o + 1)))
  else none

theorem scanEntry_ok (hv : s.views = some v) {j : Nat} (hj : j < oamEntries) : s.scanEntry j = .ok (s.entryFound v j) := by
  simp only [State.scanEntry, State.entryFound]
  rw [readOam_ok hv hj, ok_bind]
  split
  · next hc =>
    have hb := objBank_present s.cfg.hwMode (v.oamEntry j).attr
    have ha : s.entryAddr (v.oamEntry j) + 1 < 0x1000 := (objAddr_lt (objRow_lt _ hc)).1
    rw [readPair_ok hb.1 hv (by rw [hb.2]; omega)]
    rfl
  · rfl

/-- Sprite search finds the first ten of the listed entries that cover the line, in order (R210, R212). -/
theorem searchFrom_ok (hv : s.views = some v) (l : List Nat) (found : List Candidate) (hl : ∀ j ∈ l, j < oamEntries)
    (hf : found.length ≤ maxObjects) :
    s.searchFrom l found = .ok (found ++ (l.filterMap (s.entryFound v)).take (maxObjects - found.length)) := by
  induction l generalizing found with
  | nil => simp [State.searchFrom]
  | cons j l ih =>
    simp only [State.searchFrom]
    split
    · next h => simp [h]
    · next h =>
      rw [scanEntry_ok hv (hl j List.mem_cons_self), ok_bind]
      cases hc : s.entryFound v j with
      | none =>
        simp only [List.filterMap_cons, hc]
        exact ih found (fun k hk => hl k (List.mem_cons_of_mem _ hk)) hf
      | some c =>
        simp only [List.filterMap_cons, hc]
        rw [ih (found ++ [c]) (fun k hk => hl k (List.mem_cons_of_mem _ hk)) (by simp; omega)]
        have : maxObjects - found.length = (maxObjects - (found ++ [c]).length) + 1 := by simp; omega
        rw [this, List.take_succ_cons, List.append_assoc, List.singleton_append]

/-- The candidate buffer of a line (R210 to R222). -/
theorem searchLine_ok (hv : s.views = some v) : s.searchLine = .ok (if lcdcOen s.regs.lcdc then
    ((List.range oamEntries).filterMap (s.entryFound v)).take maxObjects else []) := by
  unfold State.searchLine
  split
  · rw [searchFrom_ok hv _ _ (fun j => List.mem_range.1) (Nat.zero_le _)]; rfl
  · rfl

/-- Everything sprite search puts in the buffer has the shape of a candidate (R217, R218). -/
theorem entryFound_shaped {j : Nat} {c : Candidate} (h : s.entryFound v j = some c) : c.shaped s.cfg.hwMode := by
  simp only [State.entryFound] at h
  split at h
  · cases h
    refine ⟨rfl, ?_⟩
    cases hm : s.cfg.hwMode
    · simp only [candidateOf, objPalette, paletteUsed, if_true]; split <;> rfl
    · rfl
  · cases h

theorem searchLine_shaped (hv : s.views = some v) {found : List Candidate} (h : s.searchLine = .ok found) :
    found.length ≤ maxObjects ∧ ∀ c ∈ found, c.shaped s.cfg.hwMode := by
  rw [searchLine_ok hv] at h
  injection h with h
  subst h
  split
  · refine ⟨List.length_take_le _ _, fun c hc => ?_⟩
    obtain ⟨j, _, hj⟩ := List.mem_filterMap.1 (List.mem_of_mem_take hc)
    exact entryFound_shaped hj
  · exact ⟨Nat.zero_le _, fun c hc => absurd hc List.not_mem_nil⟩

/-- Sprite search depends on the configuration, the views, the latches and the line alone. -/
theorem searchLine_congr (hc : s.cfg = t.cfg) (hv : s.views = t.views) (hr : s.regs = t.regs) (hl : s.ly = t.ly) :
    s.searchLine = t.searchLine := by
  have hscan : ∀ j, s.scanEntry j = t.scanEntry j := fun j => by
    simp only [State.scanEntry, State.readOam, State.entryCovers, State.entryAddr, readByte_congr hc hv,
      readPair_congr hc hv, hc, hr, hl]
    rfl
  have hfrom : ∀ l found, s.searchFrom l found = t.searchFrom l found := fun l => by
    induction l with
    | nil => intro _; rfl
    | cons j l ih => intro found; simp only [State.searchFrom, hscan, ih]
  simp only [State.searchLine, hfrom, hr]

/-! ### The pick (R221) -/

theorem pickCandidate_mem {x : Nat} {l : List Candidate} {c : Candidate} (h : pickCandidate x l = some c) : c ∈ l :=
  List.mem_of_find?_eq_some h

/-- A candidate is opaque at a column exactly when it covers it with a colour index other than 0 (R221). -/
theorem opaqueAt_iff {c : Candidate} {x : Nat} :
    c.opaqueAt x = true ↔ c.left ≤ x ∧ (x : Int) < c.right ∧ rowPixel c.row (BitVec.ofNat 3 (x - c.left).toNat) ≠ 0 := by
  unfold Candidate.opaqueAt Candidate.indexAt
  split
  · next h => simp [h]
  · next h => simp; exact fun h1 h2 => absurd ⟨h1, h2⟩ h

end Sys2Proof.Machine
end

