-- ==== Sys2Proof/Laws/Pixel.lean ====
section
/-! SUPPORT. What composing one pixel can do: the pixel that fetch, pick, priority and store give, and nothing else. -/

namespace Sys2Proof.Machine

variable {s t : State} {v : Views}

/-- `PIXEL`'s parts before the write touch only the transients. -/
theorem looked_frame (s : State) (o : BgPixel) : (s.setBgPixel o).objPick.prioMux.palLookup =
    { s with pix := (s.setBgPixel o).objPick.prioMux.palLookup.pix } := by
  unfold State.objPick; split <;> rfl

/-- The pixel looked up is the column's (R221, R240, R280 to R283). -/
theorem looked_out (s : State) (o : BgPixel) :
    (s.setBgPixel o).objPick.prioMux.palLookup.pix.out = columnPixel s o (pickCandidate s.x s.cands) := by
  have hpick : pickCandidate (s.setBgPixel o).x (s.setBgPixel o).cands = pickCandidate s.x s.cands := rfl
  have hmode : s.cfg.hwMode = .color ∨ s.cfg.hwMode = .mono := by cases s.cfg.hwMode <;> simp
  unfold State.objPick
  rw [hpick]
  cases hp : pickCandidate s.x s.cands with
  | none =>
    dsimp only
    rcases hmode with hm | hm <;>
      simp [State.palLookup, State.prioMux, State.lookupOut, prioSelect, priority, columnPixel, State.bgOut, State.setBgPixel,
        State.bgColor, State.storeAt, hm]
  | some c =>
    dsimp only
    rcases hmode with hm | hm <;> by_cases hz : o.idx = 0#2 <;> cases hop : o.prio <;> cases hcp : c.prio <;>
      simp [State.palLookup, State.prioMux, State.lookupOut, prioSelect, priority, columnPixel, State.setBgPixel, bgZeroOf, tilePrioOf,
        State.bgOut, State.storeAt, State.objColor, State.bgColor, hm, hz, hop, hcp]

/-- `PIXEL` up to its write: one pixel written, at its position, and otherwise only the transients changed (R286). -/
theorem composePixel_ok {o : BgPixel} (hl : s.ly < lines) (hx : s.x < width) (ho : s.fetchValue = .ok o) :
    ∃ p, s.composePixel = .ok { s with
      fb := insertCell (fbIndex s.ly s.x) (columnPixel s o (pickCandidate s.x s.cands)) s.fb, pix := p }
      ∧ p.out = columnPixel s o (pickCandidate s.x s.cands) := by
  have hf := looked_frame s o
  have hout := looked_out s o
  refine ⟨(s.setBgPixel o).objPick.prioMux.palLookup.pix, ?_, hout⟩
  unfold State.composePixel
  rw [fetchPixel_eq, ho, ok_bind, ok_bind, State.pixWrite, hout]
  generalize (s.setBgPixel o).objPick.prioMux.palLookup = u at hf ⊢
  have h1 : u.ly = s.ly := by rw [hf]
  have h2 : u.x = s.x := by rw [hf]
  rw [writePixel_ok _ (h1 ▸ hl) (h2 ▸ hx), hf]

/-- A column's pixel depends on the configuration, the column and the entries of the store that can be shown. -/
theorem columnPixel_congr (hc : s.cfg = t.cfg) (hx : s.x = t.x) (o : BgPixel) (pick : Option Candidate)
    (hpick : ∀ c ∈ pick, paletteUsed s.cfg.hwMode true c.pal = true)
    (hstore : ∀ h p e, paletteUsed s.cfg.hwMode h p = true → s.storeAt h p e = t.storeAt h p e) :
    columnPixel s o pick = columnPixel t o pick := by
  have hbg : ∀ p e, (s.cfg.hwMode = .color ∨ p = 0) → s.storeAt false p e = t.storeAt false p e := fun p e h =>
    hstore false p e (by rcases h with h | h <;> cases hm : s.cfg.hwMode <;> simp_all [paletteUsed])
  have hmode : s.cfg.hwMode = .color ∨ s.cfg.hwMode = .mono := by cases s.cfg.hwMode <;> simp
  have hobj : ∀ c ∈ pick, ∀ e, s.storeAt true c.pal e = t.storeAt true c.pal e := fun c h e => hstore _ _ _ (hpick c h)
  unfold columnPixel
  rw [← hc, ← hx]
  cases pick with
  | none =>
    rcases hmode with hm | hm
    · simp [hm, hbg o.pal o.idx (.inl hm)]
    · simp only [hm, if_true, hbg 0 o.idx (.inr rfl)]
  | some c =>
    dsimp only
    rw [hobj c rfl]
    rcases hmode with hm | hm
    · simp [hm, hbg o.pal o.idx (.inl hm)]
    · simp only [hm, if_true, hbg 0 o.idx (.inr rfl)]

end Sys2Proof.Machine
end

