-- ==== Sys2Proof/Laws/Frames.lean ====
section
/-! SUPPORT. What each operation leaves alone, from any state at all: the next state, if there is one, differs in the
named fields only. -/

namespace Sys2Proof.Machine

variable {s t : State} {v : Views}

/-! ### Timed events and LINE_START -/

/-- `MemWrite` to PALRAM is all that can happen to the views: the other spaces stay (R71, R73, R74). -/
structure SameVideo (a b : Option Views) : Prop where
  unbound : a = none → b = none
  bound : ∀ v, a = some v → ∃ w, b = some { v with palram := w }
  wf : a.all viewsOk = true → b.all viewsOk = true

theorem SameVideo.refl (a : Option Views) : SameVideo a a := ⟨id, fun v h => ⟨v.palram, h⟩, id⟩

theorem SameVideo.trans {a b c : Option Views} (h : SameVideo a b) (k : SameVideo b c) : SameVideo a c := by
  refine ⟨fun ha => k.unbound (h.unbound ha), fun v hv => ?_, fun ha => k.wf (h.wf ha)⟩
  obtain ⟨w, hw⟩ := h.bound v hv
  obtain ⟨x, hx⟩ := k.bound _ hw
  exact ⟨x, hx⟩

theorem SameVideo.store {v : Views} {off : Nat} {d : Byte} (ho : off < 128) :
    SameVideo (some v) (some { v with palram := memSet off d v.palram }) := by
  refine ⟨nofun, fun w hw => ⟨_, by cases hw; rfl⟩, fun h => ?_⟩
  simp only [Option.all_some, viewsOk, Bool.and_eq_true] at h ⊢
  exact ⟨h.1, memSet_wf ho h.2⟩

/-- The views after a palette-byte event (R74). -/
theorem evPalbyte_frame {c : BitVec 32} {off : BitVec 7} {d : Byte} (h : execEvPalbyte c off d s = .next t) :
    t = { s with views := t.views, bgpal := t.bgpal, objpal := t.objpal, colorArg := .clear }
      ∧ SameVideo s.views t.views := by
  obtain ⟨hm, v, hv⟩ := evPalbyte_next h
  obtain ⟨u, hu, hf, _⟩ := evPalbyte_ok c off d hm hv
  rw [hu] at h
  cases h
  have hw : t.views = some { v with palram := memSet off.toNat d v.palram } := by rw [hf]
  refine ⟨hw ▸ hf, ?_⟩
  rw [hv, hw]
  exact .store off.isLt

/-- LINE_START, from any state: the latches but window Y, PALRAM, the store, the operand latches, the cursors, the
phase (R26, R27, R151). -/
theorem lineStart_frame (h : execLineStart s = .next t) :
    t = { s with
      regs := t.regs, views := t.views, bgpal := t.bgpal, objpal := t.objpal, colorArg := t.colorArg,
      monoArg := t.monoArg, rp := t.rp, pp := t.pp, phase := t.phase }
      ∧ t.regs.wy = s.regs.wy ∧ SameVideo s.views t.views := by
  unfold execLineStart at h
  split at h
  · cases h
  · obtain ⟨a, ha, h⟩ := andThen_eq_next.1 h
    obtain ⟨b, hb, h⟩ := andThen_eq_next.1 h
    cases h
    have h1 := replayRegisters_keeps (P := fun a => a = { s with
        regs := a.regs, bgpal := a.bgpal, objpal := a.objpal, monoArg := a.monoArg, rp := a.rp }
        ∧ a.regs.wy = s.regs.wy) (fun a b i hp hi => by
      obtain ⟨hf, hw⟩ := applyRegister_frame hi
      refine ⟨?_, by exact hw.trans hp.2⟩
      rw [hf, hp.1]) ⟨rfl, rfl⟩ ha
    have h2 := replayPalette_keeps (P := fun b => b = { a with
        views := b.views, bgpal := b.bgpal, objpal := b.objpal, colorArg := b.colorArg, pp := b.pp }
        ∧ SameVideo a.views b.views) (fun x y i hp hi => by
      obtain ⟨w, off, d, hv, _, ho, hf⟩ := applyPalette_frame hi
      have hy : y.views = some { w with palram := memSet off d w.palram } := by rw [hf]
      refine ⟨?_, ?_⟩
      · rw [hf, hp.1]
      · show SameVideo a.views y.views
        rw [hy]
        exact hp.2.trans (hv ▸ .store ho)) ⟨rfl, .refl _⟩ hb
    have hav : a.views = s.views := by rw [h1.1]
    have hbr : b.regs = a.regs := by rw [h2.1]
    refine ⟨?_, ?_, ?_⟩
    · rw [h2.1, h1.1]; rfl
    · show b.regs.wy = s.regs.wy; rw [hbr]; exact h1.2
    · show SameVideo s.views b.views; rw [← hav]; exact h2.2

/-! ### The palette store -/

theorem reloadEntries_frame {l : List (BitVec 6)} (h : reloadEntries l s = .ok t) :
    t = { s with bgpal := t.bgpal, objpal := t.objpal, colorArg := t.colorArg } := by
  induction l generalizing s with
  | nil => cases h; rfl
  | cons e l ih =>
    obtain ⟨raw, _, h⟩ := bind_eq_ok.1 h
    rw [ih h, callColor_frame]

theorem palReload_frame (h : execPalReload s = .next t) :
    t = { s with
      bgpal := t.bgpal, objpal := t.objpal, colorArg := t.colorArg, monoArg := t.monoArg, phase := .lineStart } := by
  cases hm : s.cfg.hwMode
  · simp only [execPalReload, hm] at h
    cases h
    have hf := reloadMono_frame s
    generalize s.reloadMono = u at hf ⊢
    rw [hf]; rfl
  · simp only [execPalReload, hm] at h
    obtain ⟨u, hu, h⟩ := bind_eq_ok.1 (ofExcept_eq_next.1 h)
    cases h
    rw [reloadEntries_frame hu]; rfl

/-! ### Objects, fetch, pixels -/

theorem objSearch_frame (h : execObjSearch s = .next t) : t = { s with cands := t.cands, x := 0, phase := .pixel } := by
  obtain ⟨u, hu, h⟩ := bind_eq_ok.1 (ofExcept_eq_next.1 h)
  cases h; rfl

theorem objPick_frame (s : State) : s.objPick = { s with pix := s.objPick.pix } := by
  unfold State.objPick; split <;> rfl

theorem bgFetch_frame (h : execBgFetch s = .next t) : t = { s with pix := t.pix } := by
  obtain ⟨u, hu, h⟩ := bind_eq_ok.1 (ofExcept_eq_next.1 h)
  cases h; rfl

theorem winFetch_frame (h : execWinFetch s = .next t) : t = { s with pix := t.pix, free := t.free } := by
  unfold execWinFetch at h
  split at h
  · obtain ⟨u, hu, h⟩ := bind_eq_ok.1 (ofExcept_eq_next.1 h)
    cases h; rfl
  · cases h; rfl

/-- A pixel write that goes on wrote one pixel of the screen (R78). -/
theorem writePixel_next {ly x : Nat} {p : Pixel} (h : s.writePixel ly x p = .ok t) :
    ly < lines ∧ x < width ∧ t = { s with fb := insertCell (fbIndex ly x) p s.fb } := by
  unfold State.writePixel at h
  split at h
  · next hb => cases h; exact ⟨hb.1, hb.2, rfl⟩
  · cases h

theorem pixWrite_frame (h : execPixWrite s = .next t) :
    s.ly < lines ∧ s.x < width ∧ t = { s with fb := insertCell (fbIndex s.ly s.x) s.pix.out s.fb } :=
  writePixel_next (ofExcept_eq_next.1 h)

/-- PIXEL, from any state: one pixel of the screen written, and only cursor, transients, column and phase with it. -/
theorem pixel_frame (h : execPixel s = .next t) :
    ∃ o, s.fetchValue = .ok o ∧ s.ly < lines ∧ s.x < width ∧ t = { s with
      fb := insertCell (fbIndex s.ly s.x) (columnPixel s o (pickCandidate s.x s.cands)) s.fb, cursor := t.cursor,
      pix := .clear, x := s.x + 1, phase := if s.x + 1 = width then .lineEnd else .pixel } := by
  obtain ⟨c, _, h⟩ := bind_eq_ok.1 (ofExcept_eq_next.1 h)
  obtain ⟨u, hu, h⟩ := bind_eq_ok.1 h
  cases h
  have hu' := hu
  unfold State.composePixel at hu
  rw [fetchPixel_eq] at hu
  obtain ⟨w, hw, hu⟩ := bind_eq_ok.1 hu
  obtain ⟨o, ho, hw⟩ := bind_eq_ok.1 hw
  cases hw
  have hf := looked_frame s o
  have hb := writePixel_next hu
  have hl : s.ly < lines := by have := hb.1; rw [hf] at this; exact this
  have hx : s.x < width := by have := hb.2.1; rw [hf] at this; exact this
  obtain ⟨p, hp, _⟩ := composePixel_ok hl hx ho
  rw [hp] at hu'
  cases hu'
  exact ⟨o, ho, hl, hx, rfl⟩

theorem writeRun_frame {ly : Nat} {p : Pixel} {n x : Nat} (h : writeRun ly p n x s = .ok t) :
    t = { s with fb := t.fb } := by
  induction n generalizing x s with
  | zero => cases h; rfl
  | succ n ih =>
    obtain ⟨u, hu, h⟩ := bind_eq_ok.1 h
    rw [ih h, (writePixel_next hu).2.2]

theorem lineBlank_frame (h : execLineBlank s = .next t) : t = { s with fb := t.fb, phase := .lineEnd } := by
  obtain ⟨u, hu, h⟩ := bind_eq_ok.1 (ofExcept_eq_next.1 h)
  cases h
  rw [writeRun_frame hu]; rfl

/-! ### Masks and the frame -/

theorem decodeMask_cases (w : BitVec 18) : (∃ k, decodeMask w = .maskNormal k) ∨ (∃ k, decodeMask w = .maskFrozen k)
    ∨ (∃ k, decodeMask w = .maskBlack k) ∨ (∃ k, decodeMask w = .maskColor k) ∨ ∃ m k, decodeMask w = .maskWhite m k := by
  unfold decodeMask
  dsimp only
  split
  · exact .inl ⟨_, rfl⟩
  · split
    · exact .inr (.inl ⟨_, rfl⟩)
    · split
      · exact .inr (.inr (.inl ⟨_, rfl⟩))
      · split
        · exact .inr (.inr (.inr (.inl ⟨_, rfl⟩)))
        · exact .inr (.inr (.inr (.inr ⟨_, _, rfl⟩)))

/-- MASK_DISPATCH enters one of the five states (R303). -/
theorem maskDispatch_frame (h : execMaskDispatch s = .next t) : s.input.isSome ∧ ∃ m, t = s.enterMask m := by
  unfold execMaskDispatch at h
  split at h
  · cases h
  · next inp hi =>
    refine ⟨by rw [hi]; rfl, ?_⟩
    rcases decodeMask_cases inp.maskSel with ⟨k, hk⟩ | ⟨k, hk⟩ | ⟨k, hk⟩ | ⟨k, hk⟩ | ⟨m, k, hk⟩ <;> rw [hk] at h <;>
      cases h <;> exact ⟨_, rfl⟩

/-- FILL, under any mask: one colour over the whole buffer (R309). -/
theorem fill_frame (h : execFill s = .next t) : ∃ c n, toPixel s.cfg.format c = c ∧
    t = { s with fb := paint Space.fb.size fun _ => c, phase := .bufUnlock, free := n } := by
  have hid : ∀ f p, toPixel f (toPixel f p) = toPixel f p := fun f p => by
    cases f
    · simp only [toPixel, BitVec.and_assoc, BitVec.and_self]
    · rfl
  unfold execFill at h
  split at h
  · next p hp =>
    cases h
    refine ⟨p, s.free, ?_, rfl⟩
    cases hm : s.mask <;> rw [hm] at hp <;> cases hp <;> exact hid ..
  · cases h
    exact ⟨_, _, hid .., rfl⟩

end Sys2Proof.Machine
end

