-- ==== Sys2Proof/Laws/PerInstr.lean ====
section
/-! SUPPORT. The statements made one instruction at a time: the word of a well-formed command selects the row of its own
mnemonic in the opcode table, and no other row (R130, R140). -/

/-- The word of the command selects exactly the row of its own mnemonic. -/
def Sys2Proof.Laws.OwnRow.Statement (i : Sys2Proof.Instr) : Prop :=
  i.wf = true → ∀ r ∈ Sys2Proof.opcodeRows, (Sys2Proof.encode i).selects r.2 = true ↔ r.1 = i.mnemonic

namespace Sys2Proof.Laws.OwnRow

theorem of_row {i : Instr} (h : i.wf = true → (encode i).row = some i.mnemonic) : Statement i := fun hw r hr => by
  rw [selects_row _ r hr, h hw, Option.some.injEq]
  exact eq_comm

/-- The row of a register event's word (R112). -/
theorem event_row (c : BitVec 32) (k : BitVec 4) (d : Byte) (hk : k < 7) : (Code.evt (evtWord c k 0 d)).row =
    some (["EV_LCDC", "EV_SCX", "EV_SCY", "EV_WX", "EV_BGP", "EV_OBP0", "EV_OBP1"].getD k.toNat "") :=
  (evt_row _ k hk).1 ⟨recTarget_evtWord .., recZero_evtWord .., recOffset_evtWord ..⟩

/-- The row of a mask word of a given mode (R120). -/
theorem mask_row (m : BitVec 3) (k : BitVec 15) : (Code.mask (maskWord m k)).row =
    some (["MASK_NORMAL", "MASK_FROZEN", "MASK_BLACK", "MASK_COLOR"].getD m.toNat "MASK_WHITE") := by
  rw [show (Code.mask (maskWord m k)).row = some (["MASK_NORMAL", "MASK_FROZEN", "MASK_BLACK", "MASK_COLOR"].getD
    ((maskWord m k).extractLsb' 15 3).toNat "MASK_WHITE") from rfl, maskWord_mode]

theorem evLcdc (c : BitVec 32) (d : Byte) : Statement (.evLcdc c d) := of_row fun _ => event_row c 0 d (by decide)

theorem evScx (c : BitVec 32) (d : Byte) : Statement (.evScx c d) := of_row fun _ => event_row c 1 d (by decide)

theorem evScy (c : BitVec 32) (d : Byte) : Statement (.evScy c d) := of_row fun _ => event_row c 2 d (by decide)

theorem evWx (c : BitVec 32) (d : Byte) : Statement (.evWx c d) := of_row fun _ => event_row c 3 d (by decide)

theorem evBgp (c : BitVec 32) (d : Byte) : Statement (.evBgp c d) := of_row fun _ => event_row c 4 d (by decide)

theorem evObp0 (c : BitVec 32) (d : Byte) : Statement (.evObp0 c d) := of_row fun _ => event_row c 5 d (by decide)

theorem evObp1 (c : BitVec 32) (d : Byte) : Statement (.evObp1 c d) := of_row fun _ => event_row c 6 d (by decide)

theorem evPalbyte (c : BitVec 32) (o : BitVec 7) (d : Byte) : Statement (.evPalbyte c o d) :=
  of_row fun _ => (evt_row_palbyte _).1 ⟨recTarget_evtWord .., recZero_evtWord ..⟩

theorem maskNormal (k : BitVec 15) : Statement (.maskNormal k) := of_row fun _ => mask_row 0 k

theorem maskFrozen (k : BitVec 15) : Statement (.maskFrozen k) := of_row fun _ => mask_row 1 k

theorem maskBlack (k : BitVec 15) : Statement (.maskBlack k) := of_row fun _ => mask_row 2 k

theorem maskColor (k : BitVec 15) : Statement (.maskColor k) := of_row fun _ => mask_row 3 k

theorem maskWhite (m : BitVec 3) (k : BitVec 15) : Statement (.maskWhite m k) := of_row fun hw => by
  have hm : ∀ m : BitVec 3, m.getLsbD 2 = true →
      ["MASK_NORMAL", "MASK_FROZEN", "MASK_BLACK", "MASK_COLOR"].getD m.toNat "MASK_WHITE" = "MASK_WHITE" := by decide
  rw [encode, mask_row, hm m hw]
  rfl

theorem idle : Statement .idle := of_row fun _ => by decide

theorem frameBegin : Statement .frameBegin := of_row fun _ => by decide

theorem maskDispatch : Statement .maskDispatch := of_row fun _ => by decide

theorem bufLock : Statement .bufLock := of_row fun _ => by decide

theorem fill : Statement .fill := of_row fun _ => by decide

theorem frameLoad : Statement .frameLoad := of_row fun _ => by decide

theorem palReload : Statement .palReload := of_row fun _ => by decide

theorem lineStart : Statement .lineStart := of_row fun _ => by decide

theorem lineBlank : Statement .lineBlank := of_row fun _ => by decide

theorem objSearch : Statement .objSearch := of_row fun _ => by decide

theorem pixel : Statement .pixel := of_row fun _ => by decide

theorem bgFetch : Statement .bgFetch := of_row fun _ => by decide

theorem winFetch : Statement .winFetch := of_row fun _ => by decide

theorem objPick : Statement .objPick := of_row fun _ => by decide

theorem prioMux : Statement .prioMux := of_row fun _ => by decide

theorem palLookup : Statement .palLookup := of_row fun _ => by decide

theorem pixWrite : Statement .pixWrite := of_row fun _ => by decide

theorem lineEnd : Statement .lineEnd := of_row fun _ => by decide

theorem bufUnlock : Statement .bufUnlock := of_row fun _ => by decide

theorem present : Statement .present := of_row fun _ => by decide

theorem frameEnd : Statement .frameEnd := of_row fun _ => by decide

theorem borderRender : Statement .borderRender := of_row fun _ => by decide

theorem setColorPalette : Statement .setColorPalette := of_row fun _ => by decide

theorem setMonoPalette : Statement .setMonoPalette := of_row fun _ => by decide

end Sys2Proof.Laws.OwnRow
end

