-- ==== Sys2Proof/Tests/Slice0.lean ====
section
/-! SUPPORT. The model's own tests: words and results written out from the spec's tables (95_test_vectors.md), and for
every statement with hypotheses a state and operands that meet them. -/

namespace Sys2Proof.Tests

open Sys2Proof.Machine Sys2Proof.Claims

/-! ### Helpers -/

/-- What an operation's next state shows, if it has one. -/
def got {α : Type} (o : Result) (f : State → α) : Option α :=
  match o with
  | .next s => some (f s)
  | _ => none

/-- The operation has a next state. -/
def goesOn (o : Result) : Bool := (got o fun _ => ()).isSome

theorem next_of_goesOn {o : Result} (h : goesOn o = true) : ∃ t, o = .next t := by
  cases o with
  | next s => exact ⟨s, rfl⟩
  | fault r => cases h
  | refused r => cases h

/-- A view that holds these bytes from an offset on; the zero bytes are not listed. -/
def cells (a : Nat) : List Byte → List Host.Cell
  | [] => []
  | b :: bs => if b = 0 then cells (a + 1) bs else (a, b) :: cells (a + 1) bs

/-- Tile 1 is `(0xF0, 0xCC)` in every row, tile 2 `(0x3C, 0x7E)` in its first row; map 0 begins with cells 1, 2; map 1 with
cell 1. -/
def pictures : List Host.Cell :=
  cells 0x10 [0xF0, 0xCC, 0xF0, 0xCC, 0xF0, 0xCC, 0xF0, 0xCC, 0xF0, 0xCC, 0xF0, 0xCC, 0xF0, 0xCC, 0xF0, 0xCC, 0x3C, 0x7E]
    ++ [(0x1800, 1), (0x1801, 2), (0x1C00, 1)]

/-- A colour instance with these latches and views. -/
def colour (r : Regs) (v : Views) : State := { State.reset with regs := r, views := some v }

/-- A monochrome instance with these latches and views. -/
def grey (r : Regs) (v : Views) : State :=
  { State.resetOf (Config.default .mono .pf32 16) with regs := r, views := some v }

/-- Latches: display control, and everything else zero. -/
def latches (lcdc : Byte) : Regs := ⟨lcdc, 0, 0, 0, 0, 0, 0, 0⟩

/-- Views with nothing but zeros. -/
def blank : Views := ⟨[], [], [], []⟩

/-- A colour instance over blank views, the display off. -/
def plain : State := colour (latches 0) blank

/-- A monochrome instance over blank views, the display off. -/
def plainGrey : State := grey (latches 0) blank

/-- The clocks of a log, in order. -/
def clocksOf (l : List (BitVec 64)) : List Nat := l.map fun w => (recClock w).toNat

theorem forall_clock (P : Nat → Prop) {l : List (BitVec 64)} {cs : List Nat} (hc : clocksOf l = cs) (h : ∀ n ∈ cs, P n) :
    ∀ w ∈ l, P (recClock w).toNat := fun _ hw =>
  h _ (hc ▸ List.mem_map_of_mem (f := fun w : BitVec 64 => (recClock w).toNat) hw)

theorem logOk_of {good : BitVec 64 → Bool} {l : List (BitVec 64)} {cs : List Nat} (hc : clocksOf l = cs)
    (hg : l.all good = true) (hs : cs.Pairwise (· ≤ ·)) : LogOk good l := by
  subst hc
  exact ⟨List.all_eq_true.1 hg, List.pairwise_map.1 hs⟩

theorem pairwise_of_logOk {good : BitVec 64 → Bool} {l : List (BitVec 64)} {cs : List Nat} (hc : clocksOf l = cs)
    (h : LogOk good l) : cs.Pairwise (· ≤ ·) := by
  subst hc
  exact List.pairwise_map.2 h.2

/-! ### Well-formedness (R120, R133) -/

theorem test_wf_rejects_white_below_mode_4 : (Instr.maskWhite 3 0x2BCD).wf = false := by decide

theorem test_wf_accepts_white_modes : ∀ m : BitVec 3, 4 ≤ m → (Instr.maskWhite m 0).wf = true := by decide

/-! ### Decoding: every constructor from a word of the spec (95 section 2.1; R111, R112, R120, R121) -/

/-- `@L8 SCX = 4`, bit by bit: clock 3648, target 1, zero, offset 0, data 4. -/
theorem test_decode_event_bits : decode (.evt
    0b0000000000000000000011100100000000010000000000000000000000000100) = .ok (.evScx 3648 4) := by decide

theorem test_decode_events :
    decode (.evt 0x0000000000000091) = .ok (.evLcdc 0 0x91)
    ∧ decode (.evt 0x00000E4010000004) = .ok (.evScx 3648 4)
    ∧ decode (.evt 0x000011D0200000F6) = .ok (.evScy 4560 246)
    ∧ decode (.evt 0x0000000030000057) = .ok (.evWx 0 87)
    ∧ decode (.evt 0x00001C814000001B) = .ok (.evBgp 7297 0x1B)
    ∧ decode (.evt 0x0000FEB8500000E4) = .ok (.evObp0 65208 0xE4)
    ∧ decode (.evt 0x0000FEB9600000FF) = .ok (.evObp1 65209 0xFF)
    ∧ decode (.evt 0x00000390700002E0) = .ok (.evPalbyte 912 2 0xE0) := by decide

theorem test_decode_event_refusals :
    decode (.evt 0x0000000080000000) = .error .reservedTarget
    ∧ decode (.evt 0x00000000F0000000) = .error .reservedTarget
    ∧ decode (.evt 0x0000000010008004) = .error .zeroField
    ∧ decode (.evt 0x0000000070008000) = .error .zeroField
    ∧ decode (.evt 0x0000000010000104) = .error .offsetField := by decide

/-- `MASK COLOR 0x03E0`, bit by bit: mode 3, `k`. -/
theorem test_decode_mask_bits : decode (.mask 0b011000001111100000) = .ok (.maskColor 0x03E0) := by decide

theorem test_decode_masks :
    decode (.mask 0x00000) = .ok (.maskNormal 0)
    ∧ decode (.mask 0x0FFFF) = .ok (.maskFrozen 0x7FFF)
    ∧ decode (.mask 0x10000) = .ok (.maskBlack 0)
    ∧ decode (.mask 0x1FFFF) = .ok (.maskColor 0x7FFF)
    ∧ decode (.mask 0x20000) = .ok (.maskWhite 4 0)
    ∧ decode (.mask 0x3ABCD) = .ok (.maskWhite 7 0x2BCD) := by decide

/-- The codes of R121, bit by bit. -/
theorem test_decode_phases :
    decode (.seq 0b00000) = .ok .idle ∧ decode (.seq 0b00001) = .ok .frameBegin
    ∧ decode (.seq 0b00010) = .ok .maskDispatch ∧ decode (.seq 0b00011) = .ok .bufLock
    ∧ decode (.seq 0b00100) = .ok .fill ∧ decode (.seq 0b00101) = .ok .frameLoad
    ∧ decode (.seq 0b00110) = .ok .palReload ∧ decode (.seq 0b00111) = .ok .lineStart
    ∧ decode (.seq 0b01000) = .ok .lineBlank ∧ decode (.seq 0b01001) = .ok .objSearch
    ∧ decode (.seq 0b01010) = .ok .pixel ∧ decode (.seq 0b10001) = .ok .lineEnd
    ∧ decode (.seq 0b10010) = .ok .bufUnlock ∧ decode (.seq 0b10011) = .ok .present
    ∧ decode (.seq 0b10100) = .ok .frameEnd ∧ decode (.seq 0b10101) = .ok .borderRender := by decide

theorem test_decode_parts :
    decode (.seq 0b01011) = .ok .bgFetch ∧ decode (.seq 0b01100) = .ok .winFetch
    ∧ decode (.seq 0b01101) = .ok .objPick ∧ decode (.seq 0b01110) = .ok .prioMux
    ∧ decode (.seq 0b01111) = .ok .palLookup ∧ decode (.seq 0b10000) = .ok .pixWrite
    ∧ decode (.seq 0b10110) = .ok .setColorPalette ∧ decode (.seq 0b10111) = .ok .setMonoPalette
    ∧ decode (.seq 0b11000) = .error .reservedOperation ∧ decode (.seq 0b11111) = .error .reservedOperation := by decide

/-- The bytes of a word (log 13). -/
theorem test_decode_bytes :
    decodeBytes [0x04, 0x00, 0x00, 0x10, 0x40, 0x0E, 0x00, 0x00] = .ok (.evScx 3648 4)
    ∧ decodeBytes [0xE0, 0x83, 0x01] = .ok (.maskColor 0x03E0)
    ∧ decodeBytes [0x0A] = .ok .pixel
    ∧ decodeBytes [0x2A] = .error .padding
    ∧ decodeBytes [0x00, 0x00, 0x04] = .error .padding
    ∧ decodeBytes [0x00, 0x00] = .error .length := by decide

theorem test_decode_table_words :
    decodeTableWord 64 0x00000390700002E0 = some (.evPalbyte 912 2 0xE0)
    ∧ decodeTableWord 24 0x3ABCD = some (.maskWhite 7 0x2BCD)
    ∧ decodeTableWord 8 0x17 = some .setMonoPalette := by decide

/-- A placed command is the next one performed: a phase, a part, an event. -/
theorem test_placed_commands :
    got (step (State.reset.withFetchWord 8 0x09)) (fun t => (t.phase, t.cands)) = some (.pixel, [])
    ∧ got (step (State.reset.withFetchWord 8 0x0B)) (fun t => t.pix.bgOn) = some false
    ∧ got (step (State.reset.withFetchWord 64 0x00000E4010000004)) (fun t => (t.regs.scx, t.issue)) = some (4, none) := by
  decide

/-! ### Fields and tables (95 sections 2.2, 2.3) -/

theorem test_lcdc_fields :
    [lcdcEn, lcdcWmap, lcdcWen, lcdcTdata, lcdcBmap, lcdcOsize, lcdcOen, lcdcBen].map (· 0x97)
      = [true, false, false, true, false, true, true, true]
    ∧ [lcdcEn, lcdcWmap, lcdcWen, lcdcTdata, lcdcBmap, lcdcOsize, lcdcOen, lcdcBen].map (· 0xF3)
      = [true, true, true, true, false, false, true, true] := by decide

theorem test_mono_entries : [0, 1, 2, 3].map (monoEntry 0x1B) = [3, 2, 1, 0] := by decide

theorem test_attribute_fields :
    mattrPrio 0xA9 = true ∧ mattrVflip 0xA9 = false ∧ mattrHflip 0xA9 = true ∧ mattrBank 0xA9 = .vram1
    ∧ mattrPal 0xA9 = 1 ∧ objPalette .color 0xFF = 7 ∧ objPalette .mono 0xFF = 1
    ∧ objBank .color 0xFF = .vram1 ∧ objBank .mono 0xFF = .vram0 ∧ objPrioOf 0xFF = false := by decide

theorem test_addresses :
    tileRowAddr false 0x80 false 3 = 0x0806 ∧ tileRowAddr false 0x7F false 0 = 0x17F0
    ∧ tileRowAddr true 0x7F false 0 = 0x07F0 ∧ winLeft 3 = -4 ∧ objLeft 0 = -8 ∧ objLeft 167 = 159
    ∧ objAddr 16 0xFF 15 = 0x0FFE := by decide

theorem test_raw_color : rawColor 0x34 0x92 = 0x1234 ∧ entryOfOffset 0x4D = 38
    ∧ colorArgOf 38 0 = ⟨true, 1, 2, 0⟩ := by decide

theorem test_unpack :
    unpack 0x7E3C = 0x2FF8 ∧ unpack 0xCCF0 = 0x0A5F ∧ unpackFlip 0xCCF0 = 0xF5A0 ∧ unpack 0x0180 = 0x8001
    ∧ unpackFlip 0x0180 = 0x4002 := by decide

theorem test_default_colors :
    [0x7FFF, 0x001F, 0x03E0, 0x7C00, 0x1234].map (defaultColor .pf32)
      = [0xFFFFFFFF, 0xFFFF0000, 0xFF00FF00, 0xFF0000FF, 0xFFA58C21]
    ∧ [0x7FFF, 0x001F, 0x03E0, 0x7C00, 0x1234].map (defaultColor .pf16)
      = [0xFFFF, 0xF800, 0x07E0, 0x001F, 0xA464] := by decide

/-! ### Timed events and their replay (95 sections 2.3, 2.4; program P2) -/

theorem test_event_latches :
    got (exec (.evLcdc 0 0x91) plain) (fun t => t.regs) = some (latches 0x91)
    ∧ got (exec (.evScy 0 246) plain) (fun t => t.regs) = some { latches 0 with scy := 246 }
    ∧ got (exec (.evWx 0 87) plain) (fun t => t.regs) = some { latches 0 with wx := 87 } := by decide

/-- `SET_MONO_PALETTE(0xE4, BG)`, through the event. -/
theorem test_bgp_event_mono :
    got (exec (.evBgp 0 0xE4) plainGrey) (fun t => [0, 1, 2, 3].map (t.bgColor 0))
      = some [0xFFFFFFFF, 0xFFAAAAAA, 0xFF555555, 0xFF000000] := by decide

theorem test_obp_events_mono :
    got (exec (.evObp0 0 0xFF) plainGrey) (fun t => [0, 1, 2, 3].map (t.objColor 0))
      = some [0xFF000000, 0xFF000000, 0xFF000000, 0xFF000000]
    ∧ got (exec (.evObp1 0 0x1B) plainGrey) (fun t => [0, 1, 2, 3].map (t.objColor 1))
      = some [0xFF000000, 0xFF555555, 0xFFAAAAAA, 0xFFFFFFFF] := by decide

/-- `@2290 PAL[6] = 0x1F` over `00 7C`: the colour is made of the new low and the old high byte. -/
theorem test_palbyte_half_written :
    got (exec (.evPalbyte 2290 6 0x1F) (colour (latches 0x91) { blank with palram := cells 7 [0x7C] }))
      (fun t => (t.bgColor 0 3, (t.views.map (·.palram)).getD [])) = some (0xFFFF00FF, [(6, 0x1F), (7, 0x7C)]) := by decide

/-- The two logs of 95 section 2.4. -/
def replayed : FrameInput where
  snap := ⟨latches 0x91, blank⟩
  rlog := [0, 456, 456, 457, 65208, 65209].map fun c => evtWord c 1 0 5
  plog := [0, 455, 456, 65207, 65208].map fun c => evtWord c 7 3 9
  maskSel := 0
  lock := some 640

/-- At the start of a line of that frame. -/
def replaying (ly rp pp : Nat) : State :=
  { plain with input := some replayed, ly := ly, clk := 456 * ly, rp := rp, pp := pp, phase := .lineStart }

theorem test_line_start_lines_0_and_1 :
    got (exec .lineStart (replaying 0 0 0)) (fun t => (t.rp, t.pp)) = some (1, 0)
    ∧ got (exec .lineStart (replaying 1 1 0)) (fun t => (t.rp, t.pp)) = some (3, 2) := by decide

theorem test_line_start_lines_2_and_143 :
    got (exec .lineStart (replaying 2 3 2)) (fun t => (t.rp, t.pp)) = some (4, 3)
    ∧ got (exec .lineStart (replaying 143 4 3)) (fun t => (t.rp, t.pp)) = some (5, 4) := by decide

/-! ### The palette store (95 section 2.3) -/

theorem test_set_color_palette :
    got (exec .setColorPalette { plain with colorArg := ⟨true, 7, 3, 0x7FFF⟩ })
      (fun t => (t.objColor 7 3, t.objColor 7 2, t.bgColor 7 3)) = some (0xFFFFFFFF, 0, 0) := by decide

theorem test_set_mono_palette :
    got (exec .setMonoPalette { plainGrey with monoArg := ⟨0x1B, .obj1⟩ })
      (fun t => ([0, 1, 2, 3].map (t.objColor 1), t.objColor 0 3, t.bgColor 1 3))
      = some ([0xFF000000, 0xFF555555, 0xFFAAAAAA, 0xFFFFFFFF], 0, 0) := by decide

theorem test_pal_reload_color :
    got (exec .palReload (colour (latches 0) { blank with palram := cells 0x4C [0xE0, 0x03] }))
      (fun t => (t.objColor 1 2, t.bgColor 1 2, t.phase)) = some (0xFF00FF00, 0xFF000000, .lineStart) := by decide

theorem test_pal_reload_mono :
    got (exec .palReload (grey ⟨0, 0, 0, 0, 0, 0xE4, 0xE4, 0x1B⟩ blank))
      (fun t => (t.bgColor 0 1, t.objColor 0 3, t.objColor 1 0, t.bgColor 1 0))
      = some (0xFFAAAAAA, 0xFF000000, 0xFF000000, 0) := by decide

/-! ### The screen mask and the frame (95 S3, section 2.8) -/

/-- A frame input of that selector, otherwise empty. -/
def selecting (m : BitVec 18) : FrameInput := { FrameInput.empty with maskSel := m }

theorem test_mask_dispatch :
    got (exec .maskDispatch { plain with input := some (selecting 0x183E0) }) (fun t => (t.mask, t.phase))
      = some (.colorMask 0x03E0, .bufLock)
    ∧ got (exec .maskDispatch { plain with input := some (selecting 0x0FFFF) }) (fun t => (t.mask, t.phase))
      = some (.frozen, .present) := by decide

theorem test_mask_commands :
    got (exec (.maskWhite 7 0x2BCD) plain) (fun t => (t.mask, t.phase)) = some (.white, .bufLock)
    ∧ got (exec (.maskBlack 5) plain) (fun t => (t.mask, t.phase)) = some (.black, .bufLock)
    ∧ got (exec (.maskNormal 5) plain) (fun t => (t.mask, t.phase)) = some (.normal, .bufLock) := by decide

/-- `ColorMask(0x03E0)` fills with `COLOR_LUT[0x03E0]`. -/
theorem test_fill_color_mask : fillPixel plain.cfg (.colorMask 0x03E0) = some 0xFF00FF00
    ∧ fillPixel plain.cfg .black = some 0xFF000000 ∧ fillPixel plain.cfg .white = some 0xFFFFFFFF := by decide

theorem test_frame_begin_refuses_unsorted_log :
    got (exec .frameBegin { plain with
        attached := true, input := some { FrameInput.empty with rlog := [evtWord 10 0 0 0, evtWord 5 0 0 0] } })
      (fun t => (t.report, t.phase, t.signals, t.inProgress)) = some (some (.malformedInput .rlog 1), .idle, [], false) := by
  decide

theorem test_frame_begin_refuses_plog_when_mono :
    got (exec .frameBegin { plainGrey with
        attached := true, input := some { FrameInput.empty with plog := [evtWord 0 7 0 0] } })
      (fun t => (t.report, t.phase)) = some (some (.malformedInput .plog 0), .idle) := by decide

theorem test_frame_begin_detached :
    got (exec .frameBegin { plain with input := some FrameInput.empty }) (fun t => (t.phase, t.signals, t.report))
      = some (.idle, [], none) := by decide

theorem test_buf_lock_fails :
    got (exec .bufLock { plain with
        input := some { FrameInput.empty with lock := none }, inProgress := true, mask := .normal, signals := [.beforeFrame] })
      (fun t => (t.report, t.phase, t.inProgress, t.signals))
      = some (some .bufferUnavailable, .idle, false, [.beforeFrame, .lockBuffer]) := by decide

theorem test_frame_load :
    got (exec .frameLoad { plain with input := some { FrameInput.empty with snap := ⟨latches 0x91, blank⟩ }, ly := 144 })
      (fun t => (t.regs.lcdc, t.ly, t.phase)) = some (0x91, 0, .palReload) := by decide

theorem test_line_end :
    got (exec .lineEnd { plain with ly := 7, clk := 3192, x := 160 }) (fun t => (t.ly, t.clk, t.x, t.phase))
      = some (8, 3648, 0, .lineStart)
    ∧ got (exec .lineEnd { plain with ly := 143 }) (fun t => (t.ly, t.phase)) = some (144, .bufUnlock) := by decide

theorem test_frame_tail :
    got (exec .bufUnlock { plain with locked := some 640 }) (fun t => (t.locked, t.phase)) = some (none, .present)
    ∧ got (exec .present plain) (fun t => (t.signals, t.phase)) = some ([.render], .frameEnd)
    ∧ got (exec .frameEnd { plain with inProgress := true }) (fun t => (t.inProgress, t.views, t.phase))
      = some (false, none, .idle) := by decide

theorem test_idle_takes_requests :
    got (exec .idle (State.reset.submit .detach)) (fun t => (t.requests, t.phase)) = some ([], .idle)
    ∧ got (exec .idle (State.reset.submit (.startFrame FrameInput.empty))) (fun t => (t.input.isSome, t.phase))
      = some (true, .frameBegin) := by decide

/-- The last columns of the run that LINE_BLANK writes. -/
theorem test_line_blank_run :
    got (ofExcept (writeRun 143 (whitePixel plain.cfg) 3 157 plain))
      (fun t => (t.fb.length, t.fbPixel 143 157, t.fbPixel 143 159, t.fbPixel 142 159))
      = some (3, some 0xFFFFFFFF, some 0xFFFFFFFF, none) := by decide

theorem test_border_not_supported :
    got (exec .borderRender plain) (fun t => (t.border, t.signals, t.phase)) = some ([], [.lockBorder], .idle) := by decide

/-! ### Objects (95 S1, section 2.5) -/

/-- Twelve entries at `[16, 8j, 0, 0]`. -/
def twelve : Views :=
  { blank with oam := cells 0 [16, 0, 0, 0, 16, 8, 0, 0, 16, 16, 0, 0, 16, 24, 0, 0, 16, 32, 0, 0, 16, 40, 0, 0,
      16, 48, 0, 0, 16, 56, 0, 0, 16, 64, 0, 0, 16, 72, 0, 0, 16, 80, 0, 0, 16, 88, 0, 0] }

theorem test_ten_object_limit :
    got (exec .objSearch (grey (latches 0x93) twelve)) (fun t => t.cands.map (·.left))
      = some [-8, 0, 8, 16, 24, 32, 40, 48, 56, 64] := by decide

/-- `[16, 8, 7, 0x40]` on line 15 with tall objects: row 0 of tile 6 at `0x0060`. -/
theorem test_obj_search_tall_flipped :
    got (exec .objSearch { colour (latches 0x97) { blank with
        vram0 := cells 0x60 [0xF0, 0xCC], oam := cells 0 [16, 8, 7, 0x40] } with ly := 15 }) (fun t => t.cands)
      = some [⟨0, 8, 0x0A5F, 0, true⟩] := by decide

/-- The two candidates of 95 section 2.5. -/
def pair : List Candidate := [⟨0, 8, 0x2FF8, 0, false⟩, ⟨4, 12, 0x5555, 1, true⟩]

theorem test_obj_pick :
    [0, 1, 4, 7, 11, 12].map (fun x => got (exec .objPick { plain with cands := pair, x := x })
      fun t => (t.pix.objOpaque, t.pix.objIdx, t.pix.objPal, t.pix.objPrio))
      = [some (false, 0, 0, false), some (true, 2, 0, false), some (true, 3, 0, false), some (true, 1, 1, true),
        some (true, 1, 1, true), some (false, 0, 0, false)] := by decide

/-! ### Fetch (95 section 2.6) -/

/-- `SCX = SCY = 255` over the four tiles of 95 section 2.6. -/
def wrapped (lcdc : Byte) : State :=
  grey { latches lcdc with scx := 255, scy := 255 } { blank with
    vram0 := cells 0x7F0 [0xFF, 0xFF] ++ cells 0x80E [0x00, 0x00] ++ cells 0x81E [0xFF, 0x00] ++ cells 0x820 [0x00, 0xFF]
      ++ [(0x1800, 0x7F), (0x181F, 0x82), (0x1BE0, 0x81), (0x1BFF, 0x80)] }

theorem test_bg_fetch_wraps :
    [(0, 0), (0, 1), (1, 0), (1, 1)].map (fun p => got (exec .bgFetch { wrapped 0x91 with ly := p.1, x := p.2 })
      fun t => t.pix.bgIdx) = [some 0, some 1, some 2, some 3] := by decide

theorem test_bg_fetch_signed_and_off :
    got (exec .bgFetch { wrapped 0x81 with ly := 1, x := 1 }) (fun t => (t.pix.bgIdx, t.pix.bgOn)) = some (0, true)
    ∧ got (exec .bgFetch { wrapped 0x90 with ly := 1, x := 1 }) (fun t => (t.pix.bgIdx, t.pix.bgOn)) = some (0, false) := by
  decide

/-- `mattr = 0x21` over `(0xF0, 0xCC)`: mirrored, palette 1. -/
theorem test_bg_fetch_attributes :
    [0, 2, 4, 6].map (fun x => got (exec .bgFetch { colour (latches 0x91) { blank with
        vram0 := pictures, vram1 := [(0x1800, 0x21)] } with x := x }) fun t => (t.pix.bgIdx, t.pix.bgPal, t.pix.tilePrio))
      = [some (0, 1, false), some (2, 1, false), some (1, 1, false), some (3, 1, false)] := by decide

/-- R36, R117: when MONO a fetch supplies palette 0 and no tile priority, outside the window too. -/
theorem test_win_fetch_mono_outside :
    got (exec .winFetch plainGrey) (fun t => (t.pix.bgPal, t.pix.tilePrio, t.pix.bgOn)) = some (0, false, true) := by
  decide

/-- `WX = 3`: the first window tile is cut by 4. -/
theorem test_win_fetch_cut :
    [0, 1, 2, 3].map (fun x => got (exec .winFetch { grey { latches 0xF1 with wx := 3 } { blank with
        vram0 := pictures } with x := x }) fun t => t.pix.bgIdx) = [some 2, some 2, some 0, some 0] := by decide

theorem test_win_active_edges :
    winActive { latches 0xF1 with wx := 166 } 0 158 = false ∧ winActive { latches 0xF1 with wx := 166 } 0 159 = true
    ∧ winActive { latches 0xF1 with wx := 7, wy := 143 } 142 0 = false
    ∧ winActive { latches 0xF1 with wx := 7, wy := 143 } 143 0 = true
    ∧ winActive { latches 0xD1 with wx := 7 } 0 0 = false ∧ winActive { latches 0xF0 with wx := 7 } 0 0 = true := by decide

/-! ### Priority, lookup, pixels (95 S9, section 2.7) -/

theorem test_prio_mux_table :
    [(false, false, false), (false, false, true), (false, true, false), (false, true, true), (true, false, false),
      (true, false, true), (true, true, false), (true, true, true)].map
      (fun p => prioSelect .color true p.1 p.2.1 p.2.2)
      = [.bg, .bg, .obj, .obj, .obj, .bg, .obj, .obj]
    ∧ prioSelect .mono true true false true = .obj := by decide

/-- With the background off a monochrome instance shows the fixed ramp entry 0, not palette 0. -/
theorem test_pal_lookup :
    got (exec .palLookup plainGrey) (fun t => t.pix.out) = some 0xFFFFFFFF
    ∧ got (exec .palLookup { plainGrey with pix := { PixRegs.clear with bgOn := true } }) (fun t => t.pix.out) = some 0 := by
  decide

theorem test_pix_write :
    got (exec .pixWrite { plain with ly := 2, x := 3, pix := { PixRegs.clear with out := 0xFF00FF00 } }) (fun t => t.fb)
      = some [(323, 0xFF00FF00)] := by decide

/-- Two columns of 95 S6: column 1 of the object is index 2 of object palette 0, column 0 shows the background. -/
theorem test_pixel_object_over_background :
    [0, 1].map (fun x => got (exec .pixel { colour (latches 0x93) blank with
        cands := [⟨0, 8, 0x2FF8, 0, true⟩], x := x, bgpal := Vector.replicate 32 0xFFFFFFFF,
        objpal := (Vector.replicate 32 0).set 2 0xFF00FF00 }) fun t => (t.fb, t.x))
      = [some ([(0, 0xFFFFFFFF)], 1), some ([(1, 0xFF00FF00)], 2)] := by decide

theorem test_pixel_ends_the_line :
    got (exec .pixel { plain with x := 159 }) (fun t => (t.x, t.phase)) = some (160, .lineEnd) := by decide

/-! ### Witnesses: encodings and the step -/

theorem witness_DecodeOfEncodeIsIdentity :
    (Instr.maskWhite 4 0).wf = true ∧ (Instr.maskWhite 7 0x7FFF).wf = true
    ∧ (Instr.evPalbyte 0xFFFFFFFF 127 0xFF).wf = true ∧ Instr.idle.wf = true := by decide

theorem witness_EncodeOfDecodeIsTheWord :
    decode (.mask 0x3FFFF) = .ok (.maskWhite 7 0x7FFF) ∧ decode (.evt 0xFFFFFFFF70007FFF) = .ok (.evPalbyte 0xFFFFFFFF 127 0xFF)
    ∧ decode (.seq 0x17) = .ok .setMonoPalette := by decide

theorem witness_DecoderAgreesWithOpcodeTable :
    decode (.mask 0x20000) = .ok (.maskWhite 4 0) ∧ ("MASK_WHITE", Row.mask 0x20000 0x20000) ∈ opcodeRows := by decide

theorem witness_StepRunsFetchedCommand :
    decode State.reset.fetch = .ok .idle
    ∧ decode (State.fetch { State.reset with issue := some (.seq 0x1F) }) = .error .reservedOperation
    ∧ ({ State.reset with issue := some (.seq 0x0B) } : State).issue = some (.seq 0x0B) ∧ State.reset.issue = none := by
  decide

/-! ### Witnesses: events and the palette store -/

theorem witness_RegisterEventsWriteTheirLatch : plain.cfg.hwMode = .color := by decide

theorem witness_PaletteLatchEventsWhenMono : plainGrey.cfg.hwMode = .mono := by decide

theorem witness_PaletteByteEventStoresAndRecomputes : plain.cfg.hwMode = .color ∧ plain.views = some blank := by decide

theorem witness_PaletteByteEventStopsWhenMono : plainGrey.cfg.hwMode = .mono := by decide

theorem witness_PalReloadRebuildsColorStore : plain.cfg.hwMode = .color ∧ plain.views = some blank := by decide

theorem witness_PalReloadRebuildsMonoStore :
    plainGrey.cfg.hwMode = .mono ∧ paletteUsed .mono true 2 = false ∧ paletteUsed .mono false 1 = false := by decide

/-! ### Witnesses: masks and the sequencer -/

theorem witness_MaskDispatchDecodesSelector : [0x07FFF, 0x08000, 0x10000, 0x1FFFF, 0x20000, 0x3FFFF].map
    (fun m => (({ plain with input := some (selecting m) } : State).input, m.toNat / 2 ^ 15))
    = [(some (selecting 0x07FFF), 0), (some (selecting 0x08000), 1), (some (selecting 0x10000), 2),
      (some (selecting 0x1FFFF), 3), (some (selecting 0x20000), 4), (some (selecting 0x3FFFF), 7)] := by decide

theorem witness_FillPaintsEveryPixel : ∀ m ∈ [Mask.black, .colorMask 0, .colorMask 0x7FFF, .white, .normal, .frozen],
    ({ plain with mask := m } : State).mask = m ∧ goesOn (exec .fill { plain with mask := m }) = true := by decide

theorem witness_IdleTakesUpHostRequests : ∀ q ∈ [HostRequest.attach plain.borderIn, .resetTarget plain.borderIn, .detach,
    .startFrame FrameInput.empty], State.reset.requests = [] ∧ (State.reset.submit q).requests = q :: [] := by decide

/-- Waiting at FRAME_BEGIN with those logs, in either hardware mode. -/
def beginning (s : State) (rlog plog : List (BitVec 64)) : State :=
  { s with attached := true, input := some { FrameInput.empty with rlog := rlog, plog := plog } }

theorem replayed_rlog : LogOk registerRecord replayed.rlog :=
  logOk_of (cs := [0, 456, 456, 457, 65208, 65209]) (by decide) (by decide) (by simp)

theorem replayed_ok : LogsOk .color replayed :=
  ⟨replayed_rlog, logOk_of (cs := [0, 455, 456, 65207, 65208]) (by decide) (by decide) (by simp)⟩

theorem witness_FrameBegin_starts : (beginning plain replayed.rlog replayed.plog).attached = true
    ∧ (beginning plain replayed.rlog replayed.plog).input.isSome
    ∧ LogsOk .color { FrameInput.empty with rlog := replayed.rlog, plog := replayed.plog } ∧ plain.attached = false :=
  ⟨rfl, rfl, replayed_ok, rfl⟩

/-- A target-7 record first in RLOG, and a register event earlier than its predecessor. -/
theorem witness_FrameBegin_bad_rlog : firstBad registerRecord [evtWord 0 7 0 0] 0
    ∧ firstBad registerRecord [evtWord 10 0 0 0, evtWord 5 0 0 0] 1
    ∧ (beginning plain [evtWord 10 0 0 0, evtWord 5 0 0 0] []).locked = none :=
  ⟨⟨⟨nofun, .nil⟩, by decide, fun h => absurd (h.1 _ (.head _)) (by decide)⟩,
    ⟨logOk_of (cs := [10]) (by decide) (by decide) (by simp), by decide,
      fun h => absurd (pairwise_of_logOk (cs := [10, 5]) (by decide) h) (by decide)⟩, rfl⟩

theorem witness_FrameBegin_bad_plog : LogOk registerRecord replayed.rlog ∧ firstBad (paletteRecord .mono) [evtWord 0 7 0 0] 0
    ∧ firstBad (paletteRecord .color) [evtWord 4 7 127 0, evtWord 4 7 0 0, evtWord 3 7 0 0] 2
    ∧ (beginning plainGrey [] [evtWord 0 7 0 0]).locked = none :=
  ⟨replayed_rlog, ⟨⟨nofun, .nil⟩, by decide, fun h => absurd (h.1 _ (.head _)) (by decide)⟩,
    ⟨logOk_of (cs := [4, 4]) (by decide) (by decide) (by simp), by decide,
      fun h => absurd (pairwise_of_logOk (cs := [4, 4, 3]) (by decide) h) (by decide)⟩, rfl⟩

theorem witness_LogRecordsAdmitted :
    registerRecord (evtWord 0 6 0 0) = true ∧ registerRecord (evtWord 0 7 0 0) = false
    ∧ registerRecord (evtWord 0 0 1 0) = false ∧ registerRecord 0x0000000000008000 = false
    ∧ paletteRecord .color (evtWord 0 7 127 0) = true ∧ paletteRecord .color 0x0000000070008000 = false
    ∧ paletteRecord .color (evtWord 0 8 0 0) = false := by decide

theorem witness_BufLockSucceedsOrFaults :
    (beginning plain [] []).input.map (·.lock) = some (some 640) ∧ (beginning plain [] []).locked = none
    ∧ ({ plain with input := some { FrameInput.empty with lock := none } } : State).input.map (·.lock) = some none := by decide

theorem witness_FrameLoadCopiesSnapshot : (replaying 0 0 0).input = some replayed := by decide

theorem consumed_at_line_1 : Consumed (replaying 1 1 0) replayed :=
  ⟨by decide, by decide, forall_clock (· ≤ 456) (cs := [0]) (by decide) (by simp), nofun⟩

/-- Line 1: the events at 456 are due in RLOG and not in PLOG. -/
theorem witness_LineStartAppliesExactlyDueEvents :
    (replaying 1 1 0).input = some replayed ∧ (replaying 1 1 0).views = some blank
    ∧ LogsOk (replaying 1 1 0).cfg.hwMode replayed ∧ Consumed (replaying 1 1 0) replayed :=
  ⟨rfl, rfl, replayed_ok, consumed_at_line_1⟩

theorem witness_LineBlankWhitensTheLine :
    plain.ly < lines ∧ ({ plain with ly := 143 } : State).ly < lines := by decide

/-! ### Witnesses: objects, fetch, pixels -/

theorem witness_ObjSearchSelectsFirstTen :
    (latches 0x91).lcdc.getLsbD 1 = false ∧ (grey (latches 0x93) twelve).views = some twelve
    ∧ (grey (latches 0x93) twelve).regs.lcdc.getLsbD 1 = true := by decide

theorem witness_ObjPick_none : ∀ c ∈ pair, ∀ i, ¬ opaquePixel c 0 i := by unfold opaquePixel; decide

theorem witness_ObjPick_second : pair = [⟨0, 8, 0x2FF8, 0, false⟩] ++ ⟨4, 12, 0x5555, 1, true⟩ :: []
    ∧ (∀ d ∈ [(⟨0, 8, 0x2FF8, 0, false⟩ : Candidate)], ∀ j, ¬ opaquePixel d 7 j)
    ∧ opaquePixel ⟨4, 12, 0x5555, 1, true⟩ 7 1 := by unfold opaquePixel; decide

theorem witness_BgFetchReadsThePlane :
    (latches 0x90).lcdc.getLsbD 0 = false ∧ (wrapped 0x91).views.isSome ∧ (wrapped 0x91).regs.lcdc.getLsbD 0 = true := by
  decide

/-- The window from its first pixel, and at the last pixel of the screen. -/
theorem witness_WinFetchReadsTheWindow :
    ∀ p ∈ [(0, 0, (0 : Byte), (7 : Byte)), (143, 159, 143, 166)],
      let s : State := { colour { latches 0xF1 with wy := p.2.2.1, wx := p.2.2.2 } blank with ly := p.1, x := p.2.1 }
      s.views = some blank ∧ s.ly < lines ∧ s.x < width ∧ s.regs.lcdc.getLsbD 5 = true ∧ s.regs.wy.toNat ≤ s.ly
        ∧ s.regs.wx.toNat ≤ s.x + 7 := by decide

theorem witness_WinFetchOutsideTheWindowIsFree : ¬ inWindow plain
    ∧ ¬ inWindow (colour { latches 0xD1 with wx := 7 } blank)
    ∧ ¬ inWindow { colour { latches 0xF1 with wx := 7, wy := 143 } blank with ly := 142 }
    ∧ ¬ inWindow { colour { latches 0xF1 with wx := 166 } blank with x := 158 }
    ∧ (¬ inWindow plainGrey ∧ plainGrey.cfg.hwMode = .mono) := by decide

/-- Column 1 over the pictures, the cursor where column 0 left it. -/
def rolling : State :=
  { colour (latches 0x91) { blank with vram0 := pictures } with x := 1, cursor := ⟨0, 0, 0x0A5F, 0, false, 0, false⟩ }

theorem witness_CursorAgreesWithFetch : CursorAt rolling rolling.cursor (rolling.x - 1) ∧ rolling.views.isSome
    ∧ rolling.ly < lines ∧ rolling.x < width ∧ plain.x = 0 :=
  ⟨⟨by decide, by decide, by decide, by decide, 0, by decide, by decide, by decide⟩, by decide, by decide, by decide,
    by decide⟩

theorem witness_AddressesEvenAndInRange : 31 < 32 ∧ 7 < 8 ∧ 7 < objHeight 0x00 ∧ 15 < objHeight 0x04 := by decide

theorem witness_PixelsOccupyDisjointBytes :
    width * pixelBytes .pf32 ≤ 640 ∧ width * pixelBytes .pf16 ≤ 320 ∧ 159 < width ∧ 3 < pixelBytes .pf32
    ∧ 1 < pixelBytes .pf16 := by decide

theorem witness_PrioMuxIsThePriorityTable : plain.cfg.hwMode = .color ∧ plainGrey.cfg.hwMode = .mono := by decide

theorem witness_PalLookupReadsTheStore :
    ({ plain with pix := { PixRegs.clear with sel := .obj } } : State).pix.sel = .obj ∧ plain.pix.sel = .bg
    ∧ plain.cfg.hwMode = .color ∧ plainGrey.cfg.hwMode = .mono ∧ plainGrey.pix.bgOn = false
    ∧ ({ plainGrey with pix := { PixRegs.clear with bgOn := true } } : State).pix.bgOn = true := by decide

theorem witness_PixWriteWritesOnePixel :
    (143 < lines ∧ 159 < width) ∧ ¬ (144 < lines ∧ 0 < width) ∧ ¬ (0 < lines ∧ 160 < width) := by decide

theorem witness_PixelComposesOneColumn : ∀ p ∈ [(0, 0), (143, 159)],
    let s : State := { plain with ly := p.1, x := p.2 }
    s.views = some blank ∧ s.ly < lines ∧ s.x < width := by decide

/-- The three sources of a column: the window over the background, the background under a window not reached, neither. -/
theorem witness_fetchAt_sources :
    inWindow (colour { latches 0xF1 with wx := 7 } blank)
    ∧ (¬ inWindow { colour { latches 0xF1 with wx := 166 } blank with x := 158 }
      ∧ (latches 0xF1).lcdc.getLsbD 0 = true)
    ∧ ¬ inWindow (colour (latches 0x90) blank) ∧ (latches 0x90).lcdc.getLsbD 0 = false := by decide

/-- A border buffer that can be locked. -/
def bordered : State := { plain with borderIn := ⟨[], [], [], some 1024⟩ }

theorem witness_BorderRenderPaintsAllOrNothing : bordered.borderIn.lock.isSome ∧ plain.borderIn.lock = none
    ∧ (0 < 224 ∧ 0 < 256) ∧ (223 < 224 ∧ 255 < 256) := by decide

theorem witness_BorderIsIndependentOfTheCore :
    (∃ s', exec .borderRender bordered = .next s') ∧ bordered.cfg = ({ bordered with ly := 7 } : State).cfg
    ∧ bordered.borderIn = ({ bordered with ly := 7 } : State).borderIn
    ∧ bordered.border = ({ bordered with ly := 7 } : State).border
    ∧ Instr.present ≠ .borderRender ∧ ∃ t, exec .present bordered = .next t :=
  ⟨next_of_goesOn (by decide), rfl, rfl, rfl, by decide, next_of_goesOn (by decide)⟩

/-! ### Witnesses: the invariant at every phase -/

/-- In the middle of a frame operation on the logs of 95 section 2.4. -/
def running (p : Phase) (m : Mask) (rp : Nat) (signals : List Signal) (lock : Option Nat) : State :=
  { plain with
    attached := true, inProgress := true, input := some replayed, phase := p, mask := m, rp := rp, signals := signals,
    locked := lock, regs := (replayed.rlog.take rp).foldl latch replayed.snap.regs }

/-- In the line loop of a Normal frame, on line 0. -/
def inLine (p : Phase) (rp : Nat) : State := running p .normal rp [.beforeFrame, .lockBuffer] (some 640)

theorem running_inv {p : Phase} {m : Mask} {rp : Nat} {g : List Signal} {lock : Option Nat}
    (h : PhaseInv (running p m rp g lock)) : (running p m rp g lock).Inv :=
  ⟨rfl, rfl, rfl, by show 0 ≤ 144; omega, by show 0 ≤ 160; omega, by show 0 ≤ 10; omega, nofun, h⟩

theorem inLine_line (p : Phase) (rp : Nat) : InLine (inLine p rp) replayed :=
  ⟨⟨⟨rfl, rfl, replayed_ok⟩, rfl, rfl⟩, rfl, ⟨rfl, rfl⟩, by show 0 < 144; omega⟩

theorem caughtUp_line_0 (p : Phase) : CaughtUp (inLine p 1) replayed :=
  ⟨⟨by show 1 ≤ 6; decide, Nat.zero_le _, forall_clock (· ≤ 0) (cs := [0]) rfl (by simp), nofun⟩,
    forall_clock (0 < ·) (cs := [456, 456, 457, 65208, 65209]) rfl (by simp),
    forall_clock (0 ≤ ·) (cs := [0, 455, 456, 65207, 65208]) rfl (by simp)⟩

/-- Two states between operations: one waits at FRAME_BEGIN, one paints the border. -/
theorem witness_inv_outside : State.Inv { State.reset with phase := .idle }
    ∧ State.Inv { plain with phase := .borderRender }
    ∧ State.Inv { plain with phase := .frameBegin, input := some replayed, attached := true } :=
  ⟨⟨rfl, rfl, rfl, by decide, by decide, by decide, nofun, rfl, rfl⟩,
    ⟨rfl, rfl, rfl, by decide, by decide, by decide, nofun, ⟨rfl, rfl⟩, rfl⟩,
    ⟨rfl, rfl, rfl, by decide, by decide, by decide, nofun, ⟨rfl, rfl⟩, rfl, rfl⟩⟩

theorem witness_inv_before_drawing : (running .maskDispatch .white 0 [.beforeFrame] none).Inv
    ∧ (running .bufLock .normal 0 [.beforeFrame] none).Inv
    ∧ (running .fill .black 0 [.beforeFrame, .lockBuffer] (some 640)).Inv ∧ (inLine .frameLoad 0).Inv :=
  ⟨running_inv ⟨replayed, ⟨rfl, rfl, replayed_ok⟩, rfl, rfl⟩,
    running_inv ⟨replayed, ⟨rfl, rfl, replayed_ok⟩, rfl, rfl, nofun⟩,
    running_inv ⟨replayed, ⟨⟨rfl, rfl, replayed_ok⟩, rfl, rfl⟩, nofun, nofun⟩,
    running_inv ⟨replayed, ⟨⟨rfl, rfl, replayed_ok⟩, rfl, rfl⟩, rfl⟩⟩

theorem witness_inv_line_loop : (inLine .palReload 0).Inv ∧ (inLine .lineStart 0).Inv ∧ (inLine .lineBlank 1).Inv
    ∧ (inLine .objSearch 1).Inv ∧ (inLine .pixel 1).Inv ∧ (inLine .lineEnd 1).Inv :=
  ⟨running_inv ⟨replayed, inLine_line _ _, rfl, rfl, rfl, rfl⟩,
    running_inv ⟨replayed, inLine_line _ _, rfl, (⟨Nat.zero_le _, Nat.zero_le _, nofun, nofun⟩ : Consumed (inLine .lineStart 0) replayed)⟩,
    running_inv ⟨replayed, inLine_line _ _, rfl, caughtUp_line_0 _⟩,
    running_inv ⟨replayed, inLine_line _ _, rfl, caughtUp_line_0 _⟩,
    running_inv ⟨replayed, inLine_line _ _, (by decide : 0 < width), caughtUp_line_0 _⟩,
    running_inv ⟨replayed, inLine_line _ _, caughtUp_line_0 _⟩⟩

theorem witness_inv_after_drawing : (running .bufUnlock .white 0 [.beforeFrame, .lockBuffer] (some 640)).Inv
    ∧ (running .present .frozen 0 [.beforeFrame] none).Inv
    ∧ (running .frameEnd .normal 0 [.beforeFrame, .lockBuffer, .unlockBuffer, .render] none).Inv :=
  ⟨running_inv ⟨replayed, ⟨⟨rfl, rfl, replayed_ok⟩, rfl, rfl⟩, nofun, nofun⟩,
    running_inv ⟨replayed, ⟨rfl, rfl, replayed_ok⟩, rfl, rfl⟩,
    running_inv ⟨replayed, ⟨rfl, rfl, replayed_ok⟩, rfl, rfl⟩⟩

/-- EveryStepKeepsInvariant, InvariantStepAnswersNext, StepsFollowTransferTable, EveryOperationEndsInIdle: a state of the
invariant at each kind of phase, and the step it takes. -/
theorem witness_invariant_steps :
    (inLine .lineStart 0).Inv ∧ (∃ t, step (inLine .lineStart 0) = .next t)
    ∧ (inLine .pixel 1).Inv ∧ (∃ t, step (inLine .pixel 1) = .next t)
    ∧ (running .bufLock .normal 0 [.beforeFrame] none).Inv
    ∧ ∃ t, step (running .bufLock .normal 0 [.beforeFrame] none) = .next t :=
  ⟨witness_inv_line_loop.2.1, next_of_goesOn (by decide), witness_inv_line_loop.2.2.2.2.1, next_of_goesOn (by decide),
    witness_inv_before_drawing.2.1, next_of_goesOn (by decide)⟩

/-! ### Witnesses: rules of the whole machine -/

/-- A store that is the copy of an all-zero palette memory: every entry is `COLOR_LUT[0]`. -/
def coherent (p : Phase) : State :=
  { inLine p 1 with bgpal := Vector.replicate 32 0xFF000000, objpal := Vector.replicate 32 0xFF000000 }

theorem coherent_ok : Coherent (coherent .lineEnd) := by
  intro v hv
  cases hv
  decide

theorem witness_PaletteStoreStaysCoherent :
    ((inLine .palReload 0).Inv ∧ (inLine .palReload 0).phase = .palReload ∧ ∃ t, step (inLine .palReload 0) = .next t)
    ∧ (coherent .lineEnd).Inv ∧ normalPhase (coherent .lineEnd).phase = true ∧ Coherent (coherent .lineEnd)
    ∧ ∃ t, step (coherent .lineEnd) = .next t :=
  ⟨⟨witness_inv_line_loop.1, rfl, next_of_goesOn (by decide)⟩,
    ⟨rfl, rfl, rfl, by decide, by decide, by decide, nofun, witness_inv_line_loop.2.2.2.2.2.phases⟩, rfl, coherent_ok,
    next_of_goesOn (by decide)⟩

theorem witness_LatchesChangeOnlyAtLoadAndLineStart :
    State.reset.issue = none ∧ (∃ t, step State.reset = .next t) ∧ State.reset.phase ≠ .frameLoad
    ∧ State.reset.phase ≠ .lineStart ∧ Instr.lineStart ≠ .frameLoad ∧ ∃ t, exec .lineStart (replaying 1 1 0) = .next t :=
  ⟨rfl, next_of_goesOn (by decide), by decide, by decide, by decide, next_of_goesOn (by decide)⟩

theorem witness_VideoMemoryAndOamAreConstant :
    (∃ t w, exec (.evPalbyte 0 5 9) plain = .next t ∧ plain.views = some blank ∧ t.views = some w)
    ∧ ∃ t w, exec .lineEnd plain = .next t ∧ plain.views = some blank ∧ t.views = some w :=
  ⟨⟨_, _, rfl, rfl, rfl⟩, ⟨_, _, rfl, rfl, rfl⟩⟩

theorem witness_ConfigurationNeverChanges : ∃ t, exec .lineStart (replaying 1 1 0) = .next t :=
  next_of_goesOn (by decide)

theorem witness_BufferChangesOnlyWhileLocked : (inLine .pixel 1).Inv
    ∧ got (step (inLine .pixel 1)) (fun t => decide (t.fb = (inLine .pixel 1).fb)) = some false :=
  ⟨witness_inv_line_loop.2.2.2.2.1, by decide⟩

/-- The conditions of the transfer table, each both ways. -/
theorem witness_StepsFollowTransferTable :
    (State.mayBegin { plain with attached := true, input := some replayed } ∧ ¬ plain.mayBegin)
    ∧ State.mayLock { plain with input := some replayed } = true
    ∧ State.mayLock { plain with input := some { replayed with lock := none } } = false
    ∧ (running .bufLock .normal 0 [.beforeFrame] none).mask = .normal
    ∧ (running .bufLock .white 0 [.beforeFrame] none).mask ≠ .normal
    ∧ got (exec .lineStart (replaying 1 1 0)) (fun t => t.regs.lcdc.getLsbD 7) = some false :=
  ⟨⟨⟨rfl, _, rfl, replayed_ok⟩, fun h => nomatch h.1⟩, rfl, rfl, rfl, nofun, by decide⟩

/-- Colours of R183 and an entry that replaces one: red, green and blue of the default tables. -/
theorem witness_ColorTablesHoldTheirContents :
    [0x001F, 0x03E0, 0x7C00].map (colorLut (Config.default .color .pf32 16)) = [0xFFFF0000, 0xFF00FF00, 0xFF0000FF]
    ∧ (0x001F#15).toNat ≠ 0x03E0
    ∧ colorLut { Config.default .color .pf16 16 with lut := [(0x03E0, 1), (0x001F, 0x12345678)] } 0x001F = 0x5678 := by
  decide

theorem witness_FrozenFrameDrawsNothing :
    let s : State := { plain with phase := .maskDispatch, input := some (selecting 0x0FFFF) }
    s.issue = none ∧ s.phase = .maskDispatch ∧ s.input = some (selecting 0x0FFFF)
      ∧ (selecting 0x0FFFF).maskSel.toNat / 2 ^ 15 = 1 := by decide

/-- A whole buffer of one colour. -/
def painted : State := { running .present .normal 0 [] none with fb := paint (width * lines) fun _ => 0 }

theorem painted_ok : Painted painted := fun a ha => by
  show (lookupCell a (paint (width * lines) fun _ => 0)).isSome = true
  rw [lookupCell_paint, if_pos (show a < width * lines from ha)]
  rfl

theorem witness_DrawnPixelsAreWritten :
    ((inLine .pixel 1).Inv ∧ Painted (inLine .pixel 1) ∧ ∃ t, step (inLine .pixel 1) = .next t)
    ∧ painted.phase = .present ∧ painted.mask ≠ .frozen ∧ Painted painted :=
  ⟨⟨witness_inv_line_loop.2.2.2.2.1, fun a ha => absurd ha (Nat.not_lt_zero a), next_of_goesOn (by decide)⟩, rfl, nofun,
    painted_ok⟩

theorem witness_CompletedFrameCallsInOrder :
    let s := running .frameEnd .normal 0 [.beforeFrame, .lockBuffer, .unlockBuffer, .render] none
    let f := running .frameEnd .frozen 0 [.beforeFrame, .render] none
    (s.Inv ∧ s.phase = .frameEnd ∧ ∃ t, step s = .next t) ∧ f.Inv ∧ f.phase = .frameEnd ∧ ∃ t, step f = .next t :=
  ⟨⟨witness_inv_after_drawing.2.2, rfl, next_of_goesOn (by decide)⟩,
    running_inv ⟨replayed, ⟨rfl, rfl, replayed_ok⟩, rfl, rfl⟩, rfl, next_of_goesOn (by decide)⟩

theorem witness_PixelsKeepTheirWidth : PixelsFit (inLine .pixel 1) ∧ ∃ t, step (inLine .pixel 1) = .next t :=
  ⟨⟨fun _ _ _ => rfl, rfl, nofun, nofun⟩, next_of_goesOn (by decide)⟩

/-- The same frame begun by two engines of different pasts. -/
theorem witness_FrameLoadForgetsThePast :
    let s := inLine .frameLoad 0
    let t : State := { s with bgpal := Vector.replicate 32 5, ly := 144, clk := 65664, regs := latches 0xFF }
    s.Inv ∧ t.Inv ∧ s.phase = .frameLoad ∧ t.phase = .frameLoad ∧ s.cfg = t.cfg ∧ s.input = t.input :=
  ⟨witness_inv_before_drawing.2.2.2,
    ⟨rfl, rfl, rfl, by decide, by decide, by decide, nofun, replayed, ⟨⟨rfl, rfl, replayed_ok⟩, rfl, rfl⟩, rfl⟩, rfl, rfl,
    rfl, rfl⟩

/-- Two engines that draw the same column, with different cursors and different pixels yet to be drawn. -/
theorem witness_AlikeStates_step :
    let s := inLine .pixel 1
    let t : State := { s with cursor := ⟨1, 2, 3, 4, true, 5, true⟩, fb := [(7, 9)] }
    s.Inv ∧ t.Inv ∧ Alike s t ∧ normalPhase s.phase = true ∧ ∃ s', step s = .next s' :=
  ⟨witness_inv_line_loop.2.2.2.2.1,
    ⟨rfl, rfl, rfl, by decide, by decide, by decide, nofun, replayed, inLine_line .pixel 1, (by decide : 0 < width),
      caughtUp_line_0 .pixel⟩,
    ⟨rfl, rfl, rfl, rfl, rfl, rfl, rfl, rfl, rfl, rfl, rfl, fun _ => rfl, fun _ _ _ _ _ => rfl,
      fun a ha => absurd ha (Nat.not_lt_zero a)⟩, rfl, next_of_goesOn (by decide)⟩

theorem witness_AlikeStates_done :
    let s : State := { painted with phase := .bufUnlock }
    s.phase = .bufUnlock ∧ Alike s { s with cursor := ⟨1, 2, 3, 4, true, 5, true⟩, cands := [⟨0, 8, 0, 0, false⟩] } :=
  ⟨rfl, rfl, rfl, rfl, rfl, rfl, rfl, rfl, rfl, rfl, rfl, rfl, nofun, fun _ _ _ _ _ => rfl, fun _ _ => rfl⟩

end Sys2Proof.Tests
end

section
/-! O56: every pixel the engine holds has `PIXW` bits. Every source of pixels narrows to the format (R6), the parts the
operations share only store or move such pixels, and each operation is made of these parts. -/

namespace Sys2Proof.Machine

variable {s t : State}

/-! ### The sources of pixels (R6, R42, R183, R184, R342) -/

theorem fits_toPixel (f : PixelFormat) (p : Pixel) : fits f (toPixel f p) := by
  cases f with
  | pf16 => simp only [fits, toPixel, BitVec.and_assoc, BitVec.and_self]
  | pf32 => rfl

theorem fits_zero (f : PixelFormat) : fits f 0 := by cases f <;> rfl

theorem fits_colorLut (c : Config) (raw : BitVec 15) : fits c.format (colorLut c raw) := fits_toPixel ..

theorem fits_monoRamp (c : Config) (m : MonoTarget) (j : BitVec 2) : fits c.format (monoRamp c m j) := fits_toPixel ..

theorem fits_whitePixel (c : Config) : fits c.format (whitePixel c) := fits_toPixel ..

theorem fits_borderPixel (c : Config) (b : BorderInput) (y x : Nat) : fits c.format (borderPixel c b y x) :=
  fits_toPixel ..

/-- Painting a buffer with pixels that fit leaves pixels that fit. -/
theorem fits_of_mem_paint {g : PixelFormat} {n : Nat} {f : Nat → Pixel} (hf : ∀ a, fits g (f a)) :
    ∀ c ∈ paint n f, fits g c.2 := by
  intro c hc
  unfold paint at hc
  obtain ⟨a, _, rfl⟩ := List.mem_map.1 hc
  exact hf a

/-! ### The parts of the operations -/

/-- What `PixelsFit` reads of a state: the format, and every field that holds pixels. -/
def State.pixelFields (s : State) :
    PixelFormat × Vector Pixel 32 × Vector Pixel 32 × Pixel × List (Nat × Pixel) × List (Nat × Pixel) :=
  (s.cfg.format, s.bgpal, s.objpal, s.pix.out, s.fb, s.border)

theorem pixelsFit_resetOf (cfg : Config) : PixelsFit (State.resetOf cfg) where
  store half p e := by
    have h0 : (State.resetOf cfg).storeAt half p e = 0 := by
      cases half <;> simp [State.storeAt, State.objColor, State.bgColor, State.resetOf]
    rw [h0]
    exact fits_zero _
  out := fits_zero _
  fb := nofun
  border := nofun

namespace PixelsFit

/-- An update that leaves the pixel fields alone keeps the width of every pixel. -/
theorem congr (h : PixelsFit s) (ht : t.pixelFields = s.pixelFields) : PixelsFit t := by
  simp only [State.pixelFields, Prod.mk.injEq] at ht
  obtain ⟨hformat, hbg, hobj, hout, hfb, hborder⟩ := ht
  constructor
  case store => intro half p e; rw [hformat, storeAt_congr hbg hobj]; exact h.store half p e
  case out => rw [hformat, hout]; exact h.out
  case fb => rw [hformat, hfb]; exact h.fb
  case border => rw [hformat, hborder]; exact h.border

theorem withFb {b : List (Nat × Pixel)} (h : PixelsFit s) (hb : ∀ c ∈ b, fits s.cfg.format c.2) :
    PixelsFit { s with fb := b } := ⟨h.store, h.out, hb, h.border⟩

theorem withBorder {b : List (Nat × Pixel)} (h : PixelsFit s) (hb : ∀ c ∈ b, fits s.cfg.format c.2) :
    PixelsFit { s with border := b } := ⟨h.store, h.out, h.fb, hb⟩

theorem setStore {half : Bool} {p : BitVec 3} {e : BitVec 2} {c : Pixel} (h : PixelsFit s) (hc : fits s.cfg.format c) :
    PixelsFit (s.setStore half p e c) where
  store k q f := by
    rw [storeAt_setStore, State.setStore_cfg]
    split
    · exact hc
    · exact h.store k q f
  out := by simpa using h.out
  fb := by simpa using h.fb
  border := by simpa using h.border

theorem storeColor (h : PixelsFit s) : PixelsFit s.storeColor := h.setStore (fits_colorLut ..)

theorem storeMonoEntry (h : PixelsFit s) (j : BitVec 2) : PixelsFit (s.storeMonoEntry j) :=
  h.setStore (fits_monoRamp ..)

theorem storeMono (h : PixelsFit s) : PixelsFit s.storeMono :=
  (((h.storeMonoEntry 0).storeMonoEntry 1).storeMonoEntry 2).storeMonoEntry 3

theorem callColor (h : PixelsFit s) (a : ColorArg) : PixelsFit (s.callColor a) :=
  have harg : PixelsFit { s with colorArg := a } := h.congr rfl
  harg.storeColor.congr rfl

theorem callMono (h : PixelsFit s) (r : Byte) (m : MonoTarget) : PixelsFit (s.callMono r m) :=
  have harg : PixelsFit { s with monoArg := ⟨r, m⟩ } := h.congr rfl
  harg.storeMono.congr rfl

theorem reloadMono (h : PixelsFit s) : PixelsFit s.reloadMono :=
  ((h.callMono _ .bg).callMono _ .obj0).callMono _ .obj1

theorem reloadEntries {l : List (BitVec 6)} (h : PixelsFit s) (ht : Machine.reloadEntries l s = .ok t) :
    PixelsFit t := by
  induction l generalizing s with
  | nil => cases ht; exact h
  | cons e l ih =>
    obtain ⟨raw, _, hrest⟩ := bind_eq_ok.1 ht
    exact ih (h.callColor _) hrest

theorem writePixel {ly x : Nat} {p : Pixel} (h : PixelsFit s) (hp : fits s.cfg.format p)
    (ht : s.writePixel ly x p = .ok t) : PixelsFit t := by
  obtain ⟨_, _, rfl⟩ := writePixel_next ht
  refine h.withFb fun c hc => ?_
  rcases mem_insertCell hc with rfl | hold
  · exact hp
  · exact h.fb c hold

theorem writeRun {ly x n : Nat} {p : Pixel} (h : PixelsFit s) (hp : fits s.cfg.format p)
    (ht : Machine.writeRun ly p n x s = .ok t) : PixelsFit t := by
  induction n generalizing x s with
  | zero => cases ht; exact h
  | succ n ih =>
    obtain ⟨u, hu, hrest⟩ := bind_eq_ok.1 ht
    have hcfg : u.cfg = s.cfg := by rw [(writePixel_next hu).2.2]
    exact ih (h.writePixel hp hu) (hcfg ▸ hp) hrest

theorem writePalram {off : BitVec 7} {d : Byte} (h : PixelsFit s) (ht : s.writePalram off d = .ok t) :
    PixelsFit t := by
  unfold State.writePalram at ht
  split at ht
  · split at ht <;> cases ht
    exact h.congr rfl
  · cases ht

theorem setPhase (h : PixelsFit s) (p : Phase) : PixelsFit (s.setPhase p) := h.congr rfl

theorem emit (h : PixelsFit s) (g : Signal) : PixelsFit (s.emit g) := h.congr rfl

theorem takeFault (h : PixelsFit s) (r : Report) : PixelsFit (s.takeFault r) := by
  apply h.congr
  unfold State.takeFault State.releaseBuffer
  split <;> rfl

/-! ### The parts of PIXEL (R286) -/

theorem bgFetch (h : PixelsFit s) (ht : s.bgFetch = .ok t) : PixelsFit t := by
  obtain ⟨o, _, hset⟩ := bind_eq_ok.1 ht
  cases hset
  exact h.congr rfl

theorem winFetch (h : PixelsFit s) (ht : s.winFetch = .ok t) : PixelsFit t := by
  obtain ⟨o, _, hset⟩ := bind_eq_ok.1 ht
  cases hset
  exact h.congr rfl

theorem fetchPixel (h : PixelsFit s) (ht : s.fetchPixel = .ok t) : PixelsFit t := by
  unfold State.fetchPixel at ht
  split at ht
  · exact h.winFetch ht
  · exact h.bgFetch ht

theorem objPick (h : PixelsFit s) : PixelsFit s.objPick := by
  apply h.congr
  unfold State.objPick
  split <;> rfl

theorem prioMux (h : PixelsFit s) : PixelsFit s.prioMux := h.congr rfl

/-- Whatever side is selected, the pixel shown comes from the store or from a ramp (R282, R283). -/
theorem fits_lookupOut (h : PixelsFit s) : fits s.cfg.format s.lookupOut := by
  unfold State.lookupOut State.bgOut
  split
  · exact h.store true _ _
  · split
    · exact h.store false _ _
    · split
      · exact h.store false _ _
      · exact fits_monoRamp ..

theorem palLookup (h : PixelsFit s) : PixelsFit s.palLookup := ⟨h.store, h.fits_lookupOut, h.fb, h.border⟩

theorem pixWrite (h : PixelsFit s) (ht : s.pixWrite = .ok t) : PixelsFit t := h.writePixel h.out ht

theorem composePixel (h : PixelsFit s) (ht : s.composePixel = .ok t) : PixelsFit t := by
  obtain ⟨u, hu, hwrite⟩ := bind_eq_ok.1 ht
  exact (h.fetchPixel hu).objPick.prioMux.palLookup.pixWrite hwrite

theorem nextColumn (h : PixelsFit s) (c : Cursor) : PixelsFit (s.nextColumn c) :=
  ⟨h.store, fits_zero _, h.fb, h.border⟩

/-! ### The operations -/

theorem monoLatched (h : PixelsFit s) (d : Byte) (m : MonoTarget) : PixelsFit (s.monoLatched d m) := by
  unfold State.monoLatched
  split
  · exact h.callMono d m
  · exact h

theorem setRegs (h : PixelsFit s) (f : Regs → Regs) : PixelsFit (s.setRegs f) := h.congr rfl

theorem applyRegisterEvent {i : Instr} (h : PixelsFit s) (ht : Machine.applyRegisterEvent i s = .next t) :
    PixelsFit t := by
  cases i
  case evLcdc | evScx | evScy | evWx => cases ht; exact h.setRegs _
  case evBgp c d => cases ht; exact (h.setRegs _).monoLatched d .bg
  case evObp0 c d => cases ht; exact (h.setRegs _).monoLatched d .obj0
  case evObp1 c d => cases ht; exact (h.setRegs _).monoLatched d .obj1
  all_goals cases ht

theorem execEvPalbyte (c : BitVec 32) (off : BitVec 7) (d : Byte) (h : PixelsFit s)
    (ht : Machine.execEvPalbyte c off d s = .next t) : PixelsFit t := by
  obtain ⟨u, hu, hcolor⟩ := bind_eq_ok.1 (ofExcept_eq_next.1 ht)
  obtain ⟨raw, _, hcall⟩ := bind_eq_ok.1 hcolor
  cases hcall
  exact (h.writePalram hu).callColor _

theorem applyPaletteEvent {i : Instr} (h : PixelsFit s) (ht : Machine.applyPaletteEvent i s = .next t) :
    PixelsFit t := by
  cases i
  case evPalbyte c off d => exact h.execEvPalbyte c off d ht
  all_goals cases ht

theorem execLineStart (h : PixelsFit s) (ht : Machine.execLineStart s = .next t) : PixelsFit t := by
  unfold Machine.execLineStart at ht
  split at ht
  · cases ht
  · obtain ⟨a, ha, hrest⟩ := andThen_eq_next.1 ht
    obtain ⟨b, hb, hphase⟩ := andThen_eq_next.1 hrest
    cases hphase
    have hfa : PixelsFit a := replayRegisters_keeps (fun _ _ _ hu hi => (hu.applyRegisterEvent hi).congr rfl) h ha
    have hfb : PixelsFit b := replayPalette_keeps (fun _ _ _ hu hi => (hu.applyPaletteEvent hi).congr rfl) hfa hb
    exact hfb.setPhase _

theorem execPalReload (h : PixelsFit s) (ht : Machine.execPalReload s = .next t) : PixelsFit t := by
  cases hm : s.cfg.hwMode <;> simp only [Machine.execPalReload, hm] at ht
  case mono => cases ht; exact h.reloadMono.setPhase _
  case color =>
    obtain ⟨u, hu, hphase⟩ := bind_eq_ok.1 (ofExcept_eq_next.1 ht)
    cases hphase
    exact (h.reloadEntries hu).setPhase _

theorem execPixel (h : PixelsFit s) (ht : Machine.execPixel s = .next t) : PixelsFit t := by
  obtain ⟨c, _, hcompose⟩ := bind_eq_ok.1 (ofExcept_eq_next.1 ht)
  obtain ⟨u, hu, hnext⟩ := bind_eq_ok.1 hcompose
  cases hnext
  exact (h.composePixel hu).nextColumn c

theorem execWinFetch (h : PixelsFit s) (ht : Machine.execWinFetch s = .next t) : PixelsFit t := by
  unfold Machine.execWinFetch at ht
  split at ht
  · exact h.winFetch (ofExcept_eq_next.1 ht)
  · cases ht; exact h.congr rfl

theorem execLineBlank (h : PixelsFit s) (ht : Machine.execLineBlank s = .next t) : PixelsFit t := by
  obtain ⟨u, hu, hphase⟩ := bind_eq_ok.1 (ofExcept_eq_next.1 ht)
  cases hphase
  exact (h.writeRun (fits_whitePixel _) hu).setPhase _

theorem execFill (h : PixelsFit s) (ht : Machine.execFill s = .next t) : PixelsFit t := by
  obtain ⟨c, n, hc, rfl⟩ := fill_frame ht
  have hpainted : PixelsFit { s with fb := paint Space.fb.size fun _ => c } := h.withFb (fits_of_mem_paint fun _ => hc)
  exact hpainted.congr rfl

theorem paintBorder (h : PixelsFit s) : PixelsFit s.paintBorder :=
  h.withBorder (fits_of_mem_paint fun _ => fits_borderPixel ..)

theorem execBorderRender (h : PixelsFit s) (ht : Machine.execBorderRender s = .next t) : PixelsFit t := by
  unfold Machine.execBorderRender at ht
  split at ht <;> cases ht
  · exact ((h.emit _).paintBorder.emit _).setPhase _
  · exact (h.emit _).setPhase _

theorem execIdle (h : PixelsFit s) (ht : Machine.execIdle s = .next t) : PixelsFit t := by
  unfold Machine.execIdle at ht
  split at ht <;> cases ht
  · exact h.congr rfl
  · next q _ _ => cases q <;> exact h.congr rfl

theorem execFrameBegin (h : PixelsFit s) (ht : Machine.execFrameBegin s = .next t) : PixelsFit t := by
  unfold Machine.execFrameBegin at ht
  split at ht
  · split at ht
    · cases ht
    · split at ht <;> cases ht
      · exact h.takeFault _
      · exact h.congr rfl
  · cases ht; exact h.congr rfl

theorem execBufLock (h : PixelsFit s) (ht : Machine.execBufLock s = .next t) : PixelsFit t := by
  unfold Machine.execBufLock at ht
  split at ht
  · cases ht
  · split at ht <;> cases ht
    · exact h.congr rfl
    · exact (h.emit _).takeFault _

theorem execFrameLoad (h : PixelsFit s) (ht : Machine.execFrameLoad s = .next t) : PixelsFit t := by
  unfold Machine.execFrameLoad at ht
  split at ht <;> cases ht
  exact h.congr rfl

theorem enterMask (h : PixelsFit s) (m : Mask) : PixelsFit (s.enterMask m) := h.congr rfl

/-- Every command, from any state, leaves only pixels of the configured width. -/
theorem exec {i : Instr} (h : PixelsFit s) (ht : Machine.exec i s = .next t) : PixelsFit t := by
  cases i
  case evLcdc c d => exact h.applyRegisterEvent (i := .evLcdc c d) ht
  case evScx c d => exact h.applyRegisterEvent (i := .evScx c d) ht
  case evScy c d => exact h.applyRegisterEvent (i := .evScy c d) ht
  case evWx c d => exact h.applyRegisterEvent (i := .evWx c d) ht
  case evBgp c d => exact h.applyRegisterEvent (i := .evBgp c d) ht
  case evObp0 c d => exact h.applyRegisterEvent (i := .evObp0 c d) ht
  case evObp1 c d => exact h.applyRegisterEvent (i := .evObp1 c d) ht
  case evPalbyte c off d => exact h.execEvPalbyte c off d ht
  case maskNormal | maskFrozen | maskBlack | maskColor | maskWhite => cases ht; exact h.enterMask _
  case maskDispatch => obtain ⟨_, m, rfl⟩ := maskDispatch_frame ht; exact h.enterMask m
  case idle => exact h.execIdle ht
  case frameBegin => exact h.execFrameBegin ht
  case bufLock => exact h.execBufLock ht
  case fill => exact h.execFill ht
  case frameLoad => exact h.execFrameLoad ht
  case palReload => exact h.execPalReload ht
  case lineStart => exact h.execLineStart ht
  case lineBlank => exact h.execLineBlank ht
  case objSearch => rw [objSearch_frame ht]; exact h.congr rfl
  case pixel => exact h.execPixel ht
  case bgFetch => exact h.bgFetch (ofExcept_eq_next.1 ht)
  case winFetch => exact h.execWinFetch ht
  case objPick => cases ht; exact h.objPick
  case prioMux => cases ht; exact h.prioMux
  case palLookup => cases ht; exact h.palLookup
  case pixWrite => exact h.pixWrite (ofExcept_eq_next.1 ht)
  case lineEnd | bufUnlock | present | frameEnd => cases ht; exact h.congr rfl
  case borderRender => exact h.execBorderRender ht
  case setColorPalette => cases ht; exact h.storeColor
  case setMonoPalette => cases ht; exact h.storeMono

theorem step (h : PixelsFit s) (ht : Machine.step s = .next t) : PixelsFit t := by
  have hfetched : PixelsFit s.fetched := h.congr rfl
  unfold Machine.step at ht
  split at ht
  · exact hfetched.exec ht
  · cases ht

end PixelsFit

/-- Settles O56: the pixels of every reset state fit, and each command keeps that, from any state. -/
theorem pixelsKeepTheirWidth : Obligations.PixelsKeepTheirWidth :=
  ⟨pixelsFit_resetOf, fun _ _ => PixelsFit.step⟩

end Sys2Proof.Machine
end

section
/-! O5, O6: the step as fetch, decode and perform, and the values of R380. -/

namespace Sys2Proof.Machine

/-- Settles O5: `step` is `fetch`, `decode` and `exec` in this order. -/
theorem stepRunsFetchedCommand : Obligations.StepRunsFetchedCommand := by
  refine ⟨fun s i hi => ?_, fun s r hr => ?_, fun s c hc => ?_, fun s hs => ?_⟩
  · simp only [step, hi]; rfl
  · simp only [step, hr]
  · simp only [State.fetch, hc, Option.getD_some]
  · exact ⟨fetch_of_no_issue hs, fetched_of_no_issue hs⟩

/-- Settles O6: the values stand in `State.resetOf`. -/
theorem resetValues : Obligations.ResetValues := fun _ => ⟨rfl, rfl, rfl, rfl, rfl, rfl⟩

end Sys2Proof.Machine
end

section
/-! What the operations between frames and around the buffer can do, said once each (R300, R301, R310, R340, R358). -/

namespace Sys2Proof.Machine

variable {s t : State}

/-- IDLE waits, or takes up the oldest host request (R300, R320). -/
theorem execIdle_cases (h : execIdle s = .next t) :
    t = s.setPhase .idle ∨ ∃ q rest, s.requests = q :: rest ∧ t = State.takeRequest { s with requests := rest } q := by
  unfold execIdle at h
  split at h
  · cases h; exact .inl rfl
  · next q rest hq => cases h; exact .inr ⟨q, rest, hq, rfl⟩

/-- FRAME_BEGIN returns at once without a target, takes the fault of a malformed log, or begins the frame (R301,
R353). -/
theorem execFrameBegin_cases (h : execFrameBegin s = .next t) :
    t = State.setPhase { s with inProgress := false } .idle
      ∨ ∃ inp, s.input = some inp ∧ ((∃ r, t = s.takeFault r) ∨ (logOffence s.cfg.hwMode inp = none
        ∧ t = State.setPhase { s.emit .beforeFrame with inProgress := true } .maskDispatch)) := by
  unfold execFrameBegin at h
  split at h
  · split at h
    · cases h
    · next inp hinp =>
      refine .inr ⟨inp, hinp, ?_⟩
      split at h
      · next r _ => cases h; exact .inl ⟨r, rfl⟩
      · next hlogs => cases h; exact .inr ⟨hlogs, rfl⟩
  · cases h; exact .inl rfl

/-- BUF_LOCK holds the buffer and goes on to drawing, or takes the fault of a lock that failed (R310, R354). -/
theorem execBufLock_cases (h : execBufLock s = .next t) :
    (∃ stride, t = State.setPhase { s.emit .lockBuffer with locked := some stride }
        (if s.mask = .normal then .frameLoad else .fill))
      ∨ t = (s.emit .lockBuffer).takeFault .bufferUnavailable := by
  unfold execBufLock at h
  split at h
  · cases h
  · split at h
    · next stride _ => cases h; exact .inl ⟨stride, rfl⟩
    · cases h; exact .inr rfl

/-- BORDER_RENDER paints the border buffer between its lock and its unlock, or paints nothing (R340, R343). -/
theorem execBorderRender_cases (h : execBorderRender s = .next t) :
    t = (((s.emit .lockBorder).paintBorder).emit .unlockBorder).setPhase .idle
      ∨ t = (s.emit .lockBorder).setPhase .idle := by
  unfold execBorderRender at h
  split at h <;> cases h
  · exact .inl rfl
  · exact .inr rfl

/-- FRAME_LOAD binds the snapshot and goes to the top of the frame (R314). -/
theorem execFrameLoad_next (h : execFrameLoad s = .next t) :
    ∃ inp, s.input = some inp ∧ t = { s with
      regs := inp.snap.regs, views := some inp.snap.views, ly := 0, x := 0, clk := 0, rp := 0, pp := 0,
      phase := .palReload } := by
  unfold execFrameLoad at h
  split at h <;> cases h
  next inp hinp => exact ⟨inp, hinp, rfl⟩

@[simp] theorem State.takeFault_regs (s : State) (r : Report) : (s.takeFault r).regs = s.regs := by
  unfold State.takeFault State.releaseBuffer
  split <;> rfl

@[simp] theorem State.takeRequest_regs (s : State) (q : HostRequest) : (s.takeRequest q).regs = s.regs := by
  cases q <;> rfl

end Sys2Proof.Machine
end

section
/-! O49: the commands that can write a register latch are the register events, FRAME_LOAD and LINE_START (R26); of these
only FRAME_LOAD writes window Y (R27). -/

namespace Sys2Proof.Machine

variable {s t : State}

/-- The commands that may write a register latch (R26, R152 to R158). -/
def writesLatches : Instr → Bool
  | .evLcdc .. | .evScx .. | .evScy .. | .evWx .. | .evBgp .. | .evObp0 .. | .evObp1 .. => true
  | .frameLoad | .lineStart => true
  | _ => false

/-- Every other command leaves the eight latches alone, from any state. -/
theorem exec_regs {i : Instr} (hi : writesLatches i = false) (h : exec i s = .next t) : t.regs = s.regs := by
  cases i
  case evLcdc | evScx | evScy | evWx | evBgp | evObp0 | evObp1 | frameLoad | lineStart => cases hi
  case evPalbyte c off d => rw [(evPalbyte_frame (c := c) h).1]
  case maskNormal | maskFrozen | maskBlack | maskColor | maskWhite => cases h; rfl
  case maskDispatch => obtain ⟨_, m, rfl⟩ := maskDispatch_frame h; rfl
  case idle => obtain rfl | ⟨q, rest, _, rfl⟩ := execIdle_cases h <;> simp
  case frameBegin => obtain rfl | ⟨inp, _, ⟨r, rfl⟩ | ⟨_, rfl⟩⟩ := execFrameBegin_cases h <;> simp
  case bufLock => obtain ⟨stride, rfl⟩ | rfl := execBufLock_cases h <;> simp
  case fill => obtain ⟨c, n, _, rfl⟩ := fill_frame h; rfl
  case palReload => rw [palReload_frame h]
  case lineBlank => rw [lineBlank_frame h]
  case objSearch => rw [objSearch_frame h]
  case pixel => obtain ⟨_, _, _, _, hf⟩ := pixel_frame h; rw [hf]
  case bgFetch => rw [bgFetch_frame h]
  case winFetch => rw [winFetch_frame h]
  case objPick => cases h; simp
  case prioMux | palLookup | lineEnd | bufUnlock | present | frameEnd => cases h; rfl
  case pixWrite => obtain ⟨_, _, rfl⟩ := pixWrite_frame h; rfl
  case borderRender => obtain rfl | rfl := execBorderRender_cases h <;> rfl
  case setColorPalette => cases h; exact State.setStore_regs ..
  case setMonoPalette => cases h; rw [storeMono_frame]

/-- Of the operations a phase names only FRAME_LOAD and LINE_START write latches. -/
theorem writesLatches_phase {p : Phase} (hload : p ≠ .frameLoad) (hstart : p ≠ .lineStart) :
    writesLatches (Phase.instr p) = false := by
  cases p
  case frameLoad => exact absurd rfl hload
  case lineStart => exact absurd rfl hstart
  all_goals rfl

/-- Window Y has no event, so only FRAME_LOAD writes it, from any state (R27). -/
theorem exec_wy {i : Instr} (hi : i ≠ .frameLoad) (h : exec i s = .next t) : t.regs.wy = s.regs.wy := by
  by_cases hw : writesLatches i = false
  · rw [exec_regs hw h]
  · cases i
    case evLcdc c d => exact (applyRegister_frame (i := .evLcdc c d) h).2
    case evScx c d => exact (applyRegister_frame (i := .evScx c d) h).2
    case evScy c d => exact (applyRegister_frame (i := .evScy c d) h).2
    case evWx c d => exact (applyRegister_frame (i := .evWx c d) h).2
    case evBgp c d => exact (applyRegister_frame (i := .evBgp c d) h).2
    case evObp0 c d => exact (applyRegister_frame (i := .evObp0 c d) h).2
    case evObp1 c d => exact (applyRegister_frame (i := .evObp1 c d) h).2
    case frameLoad => exact absurd rfl hi
    case lineStart => exact (lineStart_frame h).2.1
    all_goals exact absurd rfl hw

/-- Settles O49: a step without an issued command performs the operation of its phase, and the frames of all operations
say the rest. -/
theorem latchesChangeOnlyAtLoadAndLineStart : Obligations.LatchesChangeOnlyAtLoadAndLineStart := by
  refine ⟨fun s t hissue hstep hload hstart => ?_, fun i s t => exec_wy⟩
  rw [step_phase hissue] at hstep
  exact exec_regs (writesLatches_phase hload hstart) hstep

end Sys2Proof.Machine
end

section
/-! O45, the ingredients: which logs FRAME_BEGIN admits, what LINE_START leaves of a frame's logs, and the memories in
canonical form. -/

namespace Sys2Proof.Machine

variable {s t : State} {inp : FrameInput}

/-! ### Which logs FRAME_BEGIN admits (R301, R353) -/

/-- A log without an offence is well formed, and its clocks do not fall below the clock so far. -/
theorem firstOffence_eq_none {good : BitVec 64 → Bool} {n low : Nat} {log : List (BitVec 64)} :
    firstOffence good n low log = none ↔ LogOk good log ∧ ∀ w ∈ log, low ≤ (recClock w).toNat := by
  induction log generalizing n low with
  | nil => simp [firstOffence, LogOk]
  | cons w log ih =>
    unfold firstOffence
    split
    · next hw =>
      simp only [Bool.and_eq_true, decide_eq_true_eq] at hw
      simp only [ih, LogOk, List.forall_mem_cons, List.pairwise_cons, hw, true_and]
      constructor
      · rintro ⟨⟨hgood, hsort⟩, hlow⟩
        exact ⟨⟨hgood, hlow, hsort⟩, fun v hv => Nat.le_trans hw.2 (hlow v hv)⟩
      · rintro ⟨⟨hgood, hlow, hsort⟩, -⟩
        exact ⟨⟨hgood, hsort⟩, hlow⟩
    · next hw =>
      simp only [reduceCtorEq, false_iff]
      rintro ⟨⟨hgood, -⟩, hlow⟩
      exact hw (by simp [hgood w List.mem_cons_self, hlow w List.mem_cons_self])

theorem logOffence_eq_none {m : HwMode} : logOffence m inp = none ↔ LogsOk m inp := by
  have hr := firstOffence_eq_none (good := registerRecord) (n := 0) (low := 0) (log := inp.rlog)
  have hp := firstOffence_eq_none (good := paletteRecord m) (n := 0) (low := 0) (log := inp.plog)
  simp only [Nat.zero_le, implies_true, and_true] at hr hp
  rw [LogsOk, ← hr, ← hp]
  unfold logOffence
  cases firstOffence registerRecord 0 0 inp.rlog with
  | some n => simp
  | none => cases firstOffence (paletteRecord m) 0 0 inp.plog <;> simp

/-! ### The replay of one line (R151, R163) -/

theorem LogOk.drop {good : BitVec 64 → Bool} {log : List (BitVec 64)} (h : LogOk good log) (n : Nat) :
    LogOk good (log.drop n) :=
  ⟨fun w hw => h.1 w (List.mem_of_mem_drop hw), h.2.drop⟩

/-- LINE_START applies exactly the events that have come due since the line before: after it the latches and PALRAM are
the snapshot's with all due events folded over them, and the line's phase follows the display bit (R90, R151, R163). -/
theorem execLineStart_replays (hinp : s.input = some inp) (hlogs : LogsOk s.cfg.hwMode inp) (hr : Replayed s inp)
    (hc : Consumed s inp) (h : execLineStart s = .next t) :
    Replayed t inp ∧ CaughtUp t inp ∧ t.phase = if lcdcEn t.regs.lcdc then .objSearch else .lineBlank := by
  obtain ⟨hregs, hviews⟩ := hr
  obtain ⟨hrp, hpp, hrdone, hpdone⟩ := hc
  obtain ⟨a, n, ha, hn, harp, haf, hadue, harest⟩ := replayRegisters_ok (inp.rlog.drop s.rp) s (hlogs.1.drop _)
  have hacfg : a.cfg = s.cfg := by rw [haf]
  have haregs : a.regs = ((inp.rlog.drop s.rp).take n).foldl latch s.regs := by rw [haf]
  have haviews : a.views = s.views := by rw [haf]
  have haclk : a.clk = s.clk := by rw [haf]
  have happ : a.pp = s.pp := by rw [haf]
  obtain ⟨b, m, hb, hm, hbpp, hbf, hbdue, hbrest⟩ := replayPalette_ok (inp.plog.drop a.pp) a (haviews.trans hviews)
    (hacfg ▸ hlogs.2.drop _)
  have hbregs : b.regs = a.regs := by rw [hbf]
  have hbrp : b.rp = a.rp := by rw [hbf]
  have hbclk : b.clk = a.clk := by rw [hbf]
  have hbviews := congrArg State.views hbf
  simp only [execLineStart, hinp, ha, hb, andThen, Host.Outcome.next.injEq] at h
  subst h
  rw [List.length_drop] at hn hm
  simp only [happ, haclk, List.drop_drop] at hbdue hbrest hm hbpp hbviews
  rw [List.drop_drop] at harest
  refine ⟨⟨?_, ?_⟩, ⟨⟨?_, ?_, ?_, ?_⟩, ?_, ?_⟩, rfl⟩
  all_goals simp only [State.setPhase_regs, State.setPhase_views, State.setPhase_rp, State.setPhase_pp,
    State.setPhase_clk, hbregs, hbrp, harp, hbpp, hbclk, haclk]
  · rw [haregs, hregs, List.take_add, List.foldl_append]
  · rw [hbviews, List.take_add, List.foldl_append]; rfl
  · omega
  · omega
  · rw [List.take_add, List.forall_mem_append]; exact ⟨hrdone, hadue⟩
  · rw [List.take_add, List.forall_mem_append]; exact ⟨hpdone, hbdue⟩
  · exact harest
  · exact hbrest

/-! ### Memories in canonical form (R70) -/

/-- The parts of `State.memOk`, by the field they speak of. -/
structure MemsOk (s : State) : Prop where
  views : s.views.all viewsOk = true
  input : (s.input.all fun f => viewsOk f.snap.views) = true
  requests : s.requests.all requestOk = true
  fb : bufferWf Space.fb.size s.fb = true
  border : bufferWf Space.border.size s.border = true

theorem memOk_iff : s.memOk = true ↔ MemsOk s := by
  simp only [State.memOk, Bool.and_eq_true]
  constructor
  · rintro ⟨⟨⟨⟨hviews, hinput⟩, hrequests⟩, hfb⟩, hborder⟩
    exact ⟨hviews, hinput, hrequests, hfb, hborder⟩
  · rintro ⟨hviews, hinput, hrequests, hfb, hborder⟩
    exact ⟨⟨⟨⟨hviews, hinput⟩, hrequests⟩, hfb⟩, hborder⟩

end Sys2Proof.Machine
end

section
/-! O45: each operation, performed at its own phase in a state of the invariant, leads to a state of the invariant. -/

namespace Sys2Proof.Machine

variable {s t : State}

/-! ### Outside a frame operation (R300, R320, R340) -/

theorem execIdle_keeps_inv (hs : s.Inv) (hp : s.phase = .idle) (h : execIdle s = .next t) : t.Inv := by
  have hrest : Resting s := by simpa only [PhaseInv, hp] using hs.phases
  obtain rfl | ⟨q, rest, hq, rfl⟩ := execIdle_cases h
  · exact { hs with phases := hrest }
  · have hm := memOk_iff.1 hs.mems
    have hreqs : requestOk q = true ∧ rest.all requestOk = true := by
      simpa only [hq, List.all_cons, Bool.and_eq_true] using hm.requests
    cases q with
    | attach b => exact { hs with mems := memOk_iff.2 { hm with requests := hreqs.2 }, phases := ⟨hrest, rfl⟩ }
    | resetTarget b => exact { hs with mems := memOk_iff.2 { hm with requests := hreqs.2 }, phases := ⟨hrest, rfl⟩ }
    | detach => exact { hs with mems := memOk_iff.2 { hm with requests := hreqs.2 }, phases := hrest }
    | startFrame f =>
      exact { hs with
        mems := memOk_iff.2 { hm with input := hreqs.1, requests := hreqs.2 }, phases := ⟨hrest, rfl, rfl⟩ }

theorem execBorderRender_keeps_inv (hs : s.Inv) (hp : s.phase = .borderRender) (h : execBorderRender s = .next t) :
    t.Inv := by
  obtain ⟨hrest, -⟩ : Resting s ∧ s.signals = [] := by simpa only [PhaseInv, hp] using hs.phases
  have hm := memOk_iff.1 hs.mems
  obtain rfl | rfl := execBorderRender_cases h
  · exact { hs with mems := memOk_iff.2 { hm with border := paint_wf .. }, phases := hrest }
  · exact { hs with phases := hrest }

/-! ### Into the frame operation (R301, R303, R310) -/

theorem execFrameBegin_keeps_inv (hs : s.Inv) (hp : s.phase = .frameBegin) (h : execFrameBegin s = .next t) :
    t.Inv := by
  obtain ⟨⟨-, hlock⟩, -, hsig⟩ : Resting s ∧ s.input.isSome ∧ s.signals = [] := by
    simpa only [PhaseInv, hp] using hs.phases
  obtain rfl | ⟨inp, hinp, ⟨r, rfl⟩ | ⟨hlogs, rfl⟩⟩ := execFrameBegin_cases h
  · exact { hs with phases := ⟨rfl, hlock⟩ }
  · rw [takeFault_unlocked hlock]; exact { hs with phases := ⟨rfl, hlock⟩ }
  · have hcalls : s.signals ++ [.beforeFrame] = [.beforeFrame] := by rw [hsig]; rfl
    exact { hs with phases := ⟨inp, ⟨rfl, hinp, logOffence_eq_none.1 hlogs⟩, hlock, hcalls⟩ }

theorem execMaskDispatch_keeps_inv (hs : s.Inv) (hp : s.phase = .maskDispatch) (h : execMaskDispatch s = .next t) :
    t.Inv := by
  obtain ⟨inp, hrun, hlock, hsig⟩ : ∃ inp, Running s inp ∧ s.locked = none ∧ s.signals = [.beforeFrame] := by
    simpa only [PhaseInv, hp] using hs.phases
  obtain ⟨-, m, rfl⟩ := maskDispatch_frame h
  have hphase : PhaseInv (s.enterMask m) := by
    by_cases hm : m = .frozen
    · subst hm; exact ⟨inp, hrun, hlock, hsig⟩
    · simp only [PhaseInv, State.enterMask, if_neg hm]; exact ⟨inp, hrun, hlock, hsig, hm⟩
  exact { hs with phases := hphase }

theorem execBufLock_keeps_inv (hs : s.Inv) (hp : s.phase = .bufLock) (h : execBufLock s = .next t) : t.Inv := by
  obtain ⟨inp, hrun, hlock, hsig, hfrozen⟩ :
      ∃ inp, Running s inp ∧ s.locked = none ∧ s.signals = [.beforeFrame] ∧ s.mask ≠ .frozen := by
    simpa only [PhaseInv, hp] using hs.phases
  have hcalls : s.signals ++ [.lockBuffer] = [.beforeFrame, .lockBuffer] := by rw [hsig]; rfl
  obtain ⟨stride, rfl⟩ | rfl := execBufLock_cases h
  · by_cases hm : s.mask = .normal
    · rw [if_pos hm]; exact { hs with phases := ⟨inp, ⟨hrun, rfl, hcalls⟩, hm⟩ }
    · rw [if_neg hm]; exact { hs with phases := ⟨inp, ⟨hrun, rfl, hcalls⟩, hfrozen, hm⟩ }
  · rw [takeFault_unlocked (s := s.emit .lockBuffer) hlock]; exact { hs with phases := ⟨rfl, hlock⟩ }

/-! ### The line loop of a Normal frame (R314 to R317) -/

theorem execFrameLoad_keeps_inv (hs : s.Inv) (hp : s.phase = .frameLoad) (h : execFrameLoad s = .next t) : t.Inv := by
  obtain ⟨inp, ⟨⟨hprogress, hinp, hlogs⟩, hlock⟩, hmask⟩ : ∃ inp, Drawing s inp ∧ s.mask = .normal := by
    simpa only [PhaseInv, hp] using hs.phases
  obtain ⟨inp', hinp', rfl⟩ := execFrameLoad_next h
  obtain rfl : inp = inp' := Option.some.inj (hinp.symm.trans hinp')
  have hm := memOk_iff.1 hs.mems
  have hviews : viewsOk inp.snap.views = true := by simpa only [hinp, Option.all_some] using hm.input
  exact { hs with
    mems := memOk_iff.2 { hm with views := hviews }
    clock := rfl
    line := Nat.zero_le _
    column := Nat.zero_le _
    phases := ⟨inp, ⟨⟨⟨hprogress, hinp, hlogs⟩, hlock⟩, hmask, ⟨rfl, rfl⟩, show 0 < lines by decide⟩,
      rfl, rfl, rfl, rfl⟩ }

theorem execPalReload_keeps_inv (hs : s.Inv) (hp : s.phase = .palReload) (h : execPalReload s = .next t) : t.Inv := by
  obtain ⟨inp, hin, -, hx, hrp, hpp⟩ : ∃ inp, InLine s inp ∧ s.ly = 0 ∧ s.x = 0 ∧ s.rp = 0 ∧ s.pp = 0 := by
    simpa only [PhaseInv, hp] using hs.phases
  have hnone : Consumed s inp := by simp [Consumed, hrp, hpp]
  rw [palReload_frame h]
  exact { hs with phases := ⟨inp, hin, hx, hnone⟩ }

theorem execLineStart_keeps_inv (hs : s.Inv) (hp : s.phase = .lineStart) (h : execLineStart s = .next t) : t.Inv := by
  obtain ⟨inp, ⟨hdraw, hmask, hreplayed, hly⟩, hx, hconsumed⟩ : ∃ inp, InLine s inp ∧ s.x = 0 ∧ Consumed s inp := by
    simpa only [PhaseInv, hp] using hs.phases
  have ⟨⟨_, hinp, hlogs⟩, _⟩ := hdraw
  obtain ⟨hreplayed', hcaught, hphase⟩ := execLineStart_replays hinp hlogs hreplayed hconsumed h
  obtain ⟨hf, -, hvideo⟩ := lineStart_frame h
  have hm := memOk_iff.1 hs.mems
  rw [hf] at hcaught ⊢
  refine { hs with mems := memOk_iff.2 { hm with views := hvideo.wf hm.views }, phases := ?_ }
  split at hphase <;> simp only [PhaseInv, hphase] <;>
    exact ⟨inp, ⟨hdraw, hmask, hreplayed', hly⟩, hx, hcaught⟩

theorem execLineBlank_keeps_inv (hs : s.Inv) (hp : s.phase = .lineBlank) (h : execLineBlank s = .next t) : t.Inv := by
  obtain ⟨inp, ⟨hdraw, hmask, hreplayed, hly⟩, -, hcaught⟩ : ∃ inp, InLine s inp ∧ s.x = 0 ∧ CaughtUp s inp := by
    simpa only [PhaseInv, hp] using hs.phases
  obtain ⟨fb, hrun, -, hwf, -⟩ := writeRun_ok (whitePixel s.cfg) width 0 s hly (Nat.le_of_eq (Nat.zero_add _))
  simp only [execLineBlank, hrun, ok_bind] at h
  cases h
  have hm := memOk_iff.1 hs.mems
  exact { hs with
    mems := memOk_iff.2 { hm with fb := hwf hm.fb }, phases := ⟨inp, ⟨hdraw, hmask, hreplayed, hly⟩, hcaught⟩ }

theorem execObjSearch_keeps_inv (hs : s.Inv) (hp : s.phase = .objSearch) (h : execObjSearch s = .next t) : t.Inv := by
  obtain ⟨inp, ⟨hdraw, hmask, ⟨hregs, hviews⟩, hly⟩, -, hcaught⟩ : ∃ inp, InLine s inp ∧ s.x = 0 ∧ CaughtUp s inp := by
    simpa only [PhaseInv, hp] using hs.phases
  obtain ⟨found, hfound, hnext⟩ := bind_eq_ok.1 (ofExcept_eq_next.1 h)
  cases hnext
  obtain ⟨hcount, hshapes⟩ := searchLine_shaped hviews hfound
  exact { hs with
    column := Nat.zero_le _, count := hcount, shapes := hshapes
    phases := ⟨inp, ⟨hdraw, hmask, ⟨hregs, hviews⟩, hly⟩, show 0 < width by decide, hcaught⟩ }

theorem execPixel_keeps_inv (hs : s.Inv) (hp : s.phase = .pixel) (h : execPixel s = .next t) : t.Inv := by
  obtain ⟨inp, hin, -, hcaught⟩ : ∃ inp, InLine s inp ∧ s.x < width ∧ CaughtUp s inp := by
    simpa only [PhaseInv, hp] using hs.phases
  obtain ⟨o, -, hly, hx, hf⟩ := pixel_frame h
  have hm := memOk_iff.1 hs.mems
  rw [hf]
  refine { hs with
    mems := memOk_iff.2 { hm with fb := insertCell_bufferWf (fbIndex_lt hly hx) hm.fb }, column := hx, phases := ?_ }
  by_cases hend : s.x + 1 = width
  · simp only [PhaseInv, if_pos hend]; exact ⟨inp, hin, hcaught⟩
  · simp only [PhaseInv, if_neg hend]; exact ⟨inp, hin, by omega, hcaught⟩

theorem execLineEnd_keeps_inv (hs : s.Inv) (hp : s.phase = .lineEnd) (h : execLineEnd s = .next t) : t.Inv := by
  obtain ⟨inp, ⟨hdraw, hmask, hreplayed, hly⟩, ⟨hrp, hpp, hrdone, hpdone⟩, -⟩ :
      ∃ inp, InLine s inp ∧ CaughtUp s inp := by
    simpa only [PhaseInv, hp] using hs.phases
  cases h
  refine { hs with clock := ?_, line := hly, column := Nat.zero_le _, phases := ?_ }
  · show s.clk + lineClocks = lineClocks * (s.ly + 1); rw [hs.clock, Nat.mul_succ]
  by_cases hend : s.ly + 1 = lines
  · simp only [PhaseInv, if_pos hend, State.setPhase_phase]
    exact ⟨inp, hdraw, by rw [State.setPhase_mask, hmask]; nofun, fun _ => hend⟩
  · simp only [PhaseInv, if_neg hend, State.setPhase_phase]
    exact ⟨inp, ⟨hdraw, hmask, hreplayed, by show s.ly + 1 < lines; omega⟩, rfl, hrp, hpp,
      fun w hw => Nat.le_add_right_of_le (hrdone w hw), fun w hw => Nat.lt_add_right _ (hpdone w hw)⟩

/-! ### Out of the frame operation (R309 to R312) -/

theorem execFill_keeps_inv (hs : s.Inv) (hp : s.phase = .fill) (h : execFill s = .next t) : t.Inv := by
  obtain ⟨inp, hdraw, hfrozen, hnormal⟩ : ∃ inp, Drawing s inp ∧ s.mask ≠ .frozen ∧ s.mask ≠ .normal := by
    simpa only [PhaseInv, hp] using hs.phases
  obtain ⟨c, n, -, rfl⟩ := fill_frame h
  exact { hs with
    mems := memOk_iff.2 { memOk_iff.1 hs.mems with fb := paint_wf .. }
    phases := ⟨inp, hdraw, hfrozen, fun hm => absurd hm hnormal⟩ }

theorem execBufUnlock_keeps_inv (hs : s.Inv) (hp : s.phase = .bufUnlock) (h : execBufUnlock s = .next t) : t.Inv := by
  obtain ⟨inp, ⟨hrun, -, hsig⟩, hfrozen, -⟩ :
      ∃ inp, Drawing s inp ∧ s.mask ≠ .frozen ∧ (s.mask = .normal → s.ly = lines) := by
    simpa only [PhaseInv, hp] using hs.phases
  cases h
  have hcalls : s.signals ++ [.unlockBuffer] = drawCalls s.mask := by rw [hsig, drawCalls, if_neg hfrozen]; rfl
  exact { hs with phases := ⟨inp, hrun, rfl, hcalls⟩ }

theorem execPresent_keeps_inv (hs : s.Inv) (hp : s.phase = .present) (h : execPresent s = .next t) : t.Inv := by
  obtain ⟨inp, hrun, hlock, hsig⟩ : ∃ inp, Running s inp ∧ s.locked = none ∧ s.signals = drawCalls s.mask := by
    simpa only [PhaseInv, hp] using hs.phases
  cases h
  have hcalls : s.signals ++ [.render] = drawCalls s.mask ++ [.render] := by rw [hsig]
  exact { hs with phases := ⟨inp, hrun, hlock, hcalls⟩ }

theorem execFrameEnd_keeps_inv (hs : s.Inv) (hp : s.phase = .frameEnd) (h : execFrameEnd s = .next t) : t.Inv := by
  obtain ⟨inp, -, hlock, -⟩ :
      ∃ inp, Running s inp ∧ s.locked = none ∧ s.signals = drawCalls s.mask ++ [.render] := by
    simpa only [PhaseInv, hp] using hs.phases
  cases h
  exact { hs with
    mems := memOk_iff.2 { memOk_iff.1 hs.mems with views := rfl, input := rfl }, phases := ⟨rfl, hlock⟩ }

/-- Settles O45: a state of the invariant holds no issued command, so a step performs the operation of its phase. -/
theorem everyStepKeepsInvariant : Obligations.EveryStepKeepsInvariant := by
  intro s t hs h
  rw [step_phase hs.noIssue] at h
  cases hp : s.phase <;> rw [hp] at h
  case idle => exact execIdle_keeps_inv hs hp h
  case frameBegin => exact execFrameBegin_keeps_inv hs hp h
  case maskDispatch => exact execMaskDispatch_keeps_inv hs hp h
  case bufLock => exact execBufLock_keeps_inv hs hp h
  case fill => exact execFill_keeps_inv hs hp h
  case frameLoad => exact execFrameLoad_keeps_inv hs hp h
  case palReload => exact execPalReload_keeps_inv hs hp h
  case lineStart => exact execLineStart_keeps_inv hs hp h
  case lineBlank => exact execLineBlank_keeps_inv hs hp h
  case objSearch => exact execObjSearch_keeps_inv hs hp h
  case pixel => exact execPixel_keeps_inv hs hp h
  case lineEnd => exact execLineEnd_keeps_inv hs hp h
  case bufUnlock => exact execBufUnlock_keeps_inv hs hp h
  case present => exact execPresent_keeps_inv hs hp h
  case frameEnd => exact execFrameEnd_keeps_inv hs hp h
  case borderRender => exact execBorderRender_keeps_inv hs hp h

end Sys2Proof.Machine
end

section
/-! O16: the palette store is a copy of its source. What coherence reads of a state is its configuration, the three
palette latches, the views and the store (R93); PAL_RELOAD establishes it, each timed event moves source and copy
together, and the rest of the line loop touches neither. -/

namespace Sys2Proof.Machine

variable {s t : State}

/-! ### Coherence in each hardware mode (R93) -/

theorem coherent_color_iff (hm : s.cfg.hwMode = .color) : Coherent s ↔ ∀ v, s.views = some v → ∀ half p e,
    s.storeAt half p e = colorLut s.cfg (rawAt v.palram (palOffset half p e)) := by
  simp only [Coherent, hm]

theorem coherent_mono_iff (hm : s.cfg.hwMode = .mono) : Coherent s ↔ ∀ m e,
    s.storeAt (monoDest m).1 (monoDest m).2 e = monoRamp s.cfg m (monoEntry (monoLatch s.regs m) e) := by
  simp only [Coherent, hm]

/-- No two monochrome targets share a palette of the store (R41, R182). -/
theorem monoDest_inj {m n : MonoTarget} :
    (monoDest m).1 = (monoDest n).1 ∧ (monoDest m).2 = (monoDest n).2 ↔ m = n := by
  cases m <;> cases n <;> decide

/-- A store of a byte outside a colour's pair leaves the colour (R74, R125). -/
theorem rawAt_memSet_ne {palram : List Host.Cell} {a off : Nat} {d : Byte} (hlo : off ≠ a) (hhi : off + 1 ≠ a) :
    rawAt (memSet a d palram) off = rawAt palram off := by
  simp only [rawAt, memGet_memSet, if_neg hlo, if_neg hhi]

namespace Coherent

/-- An update that leaves source and copy alone keeps coherence. -/
theorem congr (h : Coherent s) (hcfg : t.cfg = s.cfg) (hlatch : ∀ m, monoLatch t.regs m = monoLatch s.regs m)
    (hviews : t.views = s.views) (hbg : t.bgpal = s.bgpal) (hobj : t.objpal = s.objpal) : Coherent t := by
  unfold Coherent at h ⊢
  simp only [hcfg, hviews, hlatch, storeAt_congr hbg hobj]
  exact h

/-! ### The timed events (R152 to R159) -/

/-- Writing one monochrome latch and having its palette follow keeps coherence (R156 to R158). -/
theorem monoLatched {f : Regs → Regs} {m : MonoTarget} {d : Byte} (h : Coherent s)
    (hlatch : ∀ n, monoLatch (f s.regs) n = if n = m then d else monoLatch s.regs n) :
    Coherent ((s.setRegs f).monoLatched d m) := by
  have hf := monoLatched_frame (s.setRegs f) d m
  have hcfg : ((s.setRegs f).monoLatched d m).cfg = s.cfg := by rw [hf]; rfl
  have hregs : ((s.setRegs f).monoLatched d m).regs = f s.regs := by rw [hf]; rfl
  have hviews : ((s.setRegs f).monoLatched d m).views = s.views := by rw [hf]; rfl
  cases hm : s.cfg.hwMode
  case color =>
    rw [coherent_color_iff (hcfg ▸ hm), hcfg, hviews]
    intro v hv half p e
    rw [storeAt_monoLatched, if_neg (by simp [hm])]
    exact (coherent_color_iff hm).1 h v hv half p e
  case mono =>
    rw [coherent_mono_iff (hcfg ▸ hm), hcfg, hregs]
    intro n e
    rw [storeAt_monoLatched, hlatch]
    by_cases hn : n = m
    · subst hn; rw [if_pos ⟨hm, rfl, rfl⟩, if_pos rfl]; rfl
    · rw [if_neg fun hdest => hn (monoDest_inj.1 hdest.2), if_neg hn]
      exact (coherent_mono_iff hm).1 h n e

/-- Every register event keeps coherence: a palette latch takes its palette along, the other latches are no source. -/
theorem applyRegisterEvent {i : Instr} (h : Coherent s) (ht : Machine.applyRegisterEvent i s = .next t) :
    Coherent t := by
  cases i
  case evLcdc | evScx | evScy | evWx => cases ht; exact h.congr rfl (fun m => by cases m <;> rfl) rfl rfl rfl
  case evBgp | evObp0 | evObp1 =>
    cases ht
    exact h.monoLatched fun n => by cases n <;> rfl
  all_goals cases ht

/-- The byte stored belongs to one colour, which is recomputed; every other colour keeps both its bytes (R159). -/
theorem execEvPalbyte (c : BitVec 32) (off : BitVec 7) (d : Byte) (h : Coherent s)
    (ht : Machine.execEvPalbyte c off d s = .next t) : Coherent t := by
  obtain ⟨hm, v, hv⟩ := evPalbyte_next ht
  obtain ⟨u, hu, hf, hstore⟩ := evPalbyte_ok c off d hm hv
  obtain rfl : u = t := Host.Outcome.next.inj (hu.symm.trans ht)
  have hcfg : u.cfg = s.cfg := by rw [hf]
  have hviews : u.views = some { v with palram := memSet off.toNat d v.palram } := by rw [hf]
  rw [coherent_color_iff (hcfg ▸ hm), hcfg, hviews]
  rintro _ ⟨⟩ half p e
  rw [hstore]
  split
  · next heq => rw [heq]
  · next hne =>
    have heven := (palOffset_lt half p e).2
    rw [(coherent_color_iff hm).1 h v hv, rawAt_memSet_ne (by omega) (by omega)]

theorem applyPaletteEvent {i : Instr} (h : Coherent s) (ht : Machine.applyPaletteEvent i s = .next t) :
    Coherent t := by
  cases i
  case evPalbyte c off d => exact h.execEvPalbyte c off d ht
  all_goals cases ht

/-- LINE_START keeps coherence, because every event of both replays does (R151). -/
theorem execLineStart (h : Coherent s) (ht : Machine.execLineStart s = .next t) : Coherent t := by
  unfold Machine.execLineStart at ht
  split at ht
  · cases ht
  · obtain ⟨a, ha, hrest⟩ := andThen_eq_next.1 ht
    obtain ⟨b, hb, hphase⟩ := andThen_eq_next.1 hrest
    cases hphase
    have hca : Coherent a := replayRegisters_keeps
      (fun _ _ _ hu hi => (hu.applyRegisterEvent hi).congr rfl (fun _ => rfl) rfl rfl rfl) h ha
    have hcb : Coherent b := replayPalette_keeps
      (fun _ _ _ hu hi => (hu.applyPaletteEvent hi).congr rfl (fun _ => rfl) rfl rfl rfl) hca hb
    exact hcb

end Coherent

/-! ### PAL_RELOAD (R185) -/

/-- PAL_RELOAD, from any state, leaves the store the copy of its source. -/
theorem coherent_of_execPalReload (h : execPalReload s = .next t) : Coherent t := by
  have hf := palReload_frame h
  have hcfg : t.cfg = s.cfg := by rw [hf]
  have hregs : t.regs = s.regs := by rw [hf]
  have hviews : t.views = s.views := by rw [hf]
  cases hm : s.cfg.hwMode <;> simp only [execPalReload, hm] at h
  case color =>
    obtain ⟨u, hu, hphase⟩ := bind_eq_ok.1 (ofExcept_eq_next.1 h)
    rw [coherent_color_iff (hcfg ▸ hm), hcfg, hviews]
    intro v hv half p e
    obtain ⟨u', hu', -, -, hstore⟩ := reloadEntries_ok colorEntries s hm hv
    obtain rfl : u' = u := Except.ok.inj (hu'.symm.trans hu)
    cases hphase
    rw [storeAt_setPhase, hstore, if_pos (mem_colorEntries half p e)]
  case mono =>
    rw [coherent_mono_iff (hcfg ▸ hm), hcfg, hregs]
    cases h
    intro m e
    rw [storeAt_setPhase, storeAt_reloadMono]
    cases m <;> rfl

/-- Settles O16: PAL_RELOAD makes the store coherent, LINE_START moves source and copy together, and the other phases
of the line loop touch neither. -/
theorem paletteStoreStaysCoherent : Obligations.PaletteStoreStaysCoherent := by
  refine ⟨fun s t hs hp h => ?_, fun s t hs hp hc h => ?_⟩ <;> rw [step_phase hs.noIssue] at h
  · rw [hp] at h; exact coherent_of_execPalReload h
  · cases hphase : s.phase <;> rw [hphase] at h hp
    case palReload => exact coherent_of_execPalReload h
    case lineStart => exact hc.execLineStart h
    case lineBlank => rw [lineBlank_frame h]; exact hc
    case objSearch => rw [objSearch_frame h]; exact hc
    case pixel => obtain ⟨o, -, -, -, hf⟩ := pixel_frame h; rw [hf]; exact hc
    case lineEnd => cases h; exact hc
    all_goals cases hp

end Sys2Proof.Machine
end

section
/-! O37, O38: every pair of bytes stands at an even offset inside its space (R84, R86), and the pixels of a locked buffer
stand apart (R78). -/

namespace Sys2Proof.Machine

/-! ### Tile data (R126, R245) -/

theorem tileBase_unsigned_le (idx : Byte) : tileBase true idx ≤ 0x0FF0 := by
  have hidx := idx.isLt
  simp only [tileBase, if_true]
  omega

/-- Signed tile indices reach 128 tiles below `0x1000` and no further. -/
theorem le_tileBase_signed (idx : Byte) : 0x0800 ≤ tileBase false idx := by
  have hidx : -128 ≤ idx.toInt := BitVec.le_toInt idx
  simp only [tileBase, Bool.false_eq_true, if_false]
  omega

/-- A row of a tile lies within the 16 bytes of the tile, flipped or not (R126, R244). -/
theorem tileRowAddr_within (unsigned : Bool) (idx : Byte) (vflip : Bool) {trow : Nat} (h : trow < 8) :
    tileBase unsigned idx ≤ tileRowAddr unsigned idx vflip trow
      ∧ tileRowAddr unsigned idx vflip trow + 1 ≤ tileBase unsigned idx + 15 := by
  cases vflip <;> simp only [tileRowAddr, Bool.false_eq_true, if_false, if_true] <;> omega

/-- Settles O37, from the bounds of each kind of address. -/
theorem addressesEvenAndInRange : Obligations.AddressesEvenAndInRange := by
  refine ⟨fun second row col hrow hcol => ?_, fun idx vflip trow htrow => ?_, fun lcdc tile r hr => ?_,
    fun half p e => ?_⟩
  · have hcell := cellAddr_lt (second := second) hrow hcol
    omega
  · have hunsigned := tileBase_unsigned_le idx
    have hsigned := le_tileBase_signed idx
    have hrowU := tileRowAddr_within true idx vflip htrow
    have hrowS := tileRowAddr_within false idx vflip htrow
    have hpairU := tileRowAddr_lt true idx vflip htrow
    have hpairS := tileRowAddr_lt false idx vflip htrow
    omega
  · have haddr := objAddr_lt (tile := tile) hr
    omega
  · have hpal := palOffset_lt half p e
    omega

/-! ### The bytes of a locked buffer (R78) -/

/-- The row of a row-major offset. -/
theorem rowMajor_div {n a b : Nat} (hb : b < n) : (a * n + b) / n = a := by
  rw [Nat.mul_comm, Nat.mul_add_div (Nat.zero_lt_of_lt hb), Nat.div_eq_of_lt hb, Nat.add_zero]

/-- A row-major offset tells its row and its column. -/
theorem rowMajor_inj {n a b c d : Nat} (hb : b < n) (hd : d < n) (h : a * n + b = c * n + d) : a = c ∧ b = d := by
  obtain rfl : a = c :=
    calc a = (a * n + b) / n := (rowMajor_div hb).symm
      _ = (c * n + d) / n := by rw [h]
      _ = c := rowMajor_div hd
  exact ⟨rfl, Nat.add_left_cancel h⟩

/-- Every byte of a pixel of the line lies below column 160 (R78). -/
theorem pixelByte_lt {b x i : Nat} (hx : x < width) (hi : i < b) : x * b + i < width * b :=
  calc x * b + i < x * b + b := Nat.add_lt_add_left hi _
    _ = (x + 1) * b := (Nat.succ_mul x b).symm
    _ ≤ width * b := Nat.mul_le_mul_right b hx

/-- Settles O38: the offset of a byte is row-major twice, a line in the buffer and a pixel in its line. -/
theorem pixelsOccupyDisjointBytes : Obligations.PixelsOccupyDisjointBytes := by
  intro f stride ly x ly' x' i j hstride hx hx' hi hj
  have hcol := pixelByte_lt hx hi
  have hcol' := pixelByte_lt hx' hj
  simp only [fbOffset, Nat.add_assoc]
  refine ⟨fun h => ?_, Nat.add_lt_add_left hcol _⟩
  obtain ⟨hline, hrest⟩ := rowMajor_inj (Nat.lt_of_lt_of_le hcol hstride) (Nat.lt_of_lt_of_le hcol' hstride) h
  exact ⟨hline, rowMajor_inj hi hj hrest⟩

end Sys2Proof.Machine
end

section
/-! O50, O11: which commands can change the snapshot views (R71 to R74), and that MONO has no palette memory (R70). -/

namespace Sys2Proof.Machine

variable {s t : State}

@[simp] theorem State.takeFault_views (s : State) (r : Report) : (s.takeFault r).views = s.views := by
  unfold State.takeFault State.releaseBuffer
  split <;> rfl

@[simp] theorem State.takeRequest_views (s : State) (q : HostRequest) : (s.takeRequest q).views = s.views := by
  cases q <;> rfl

/-- The commands that bind the views, discard them, or store a byte of palette memory (R74, R77, R314). -/
def changesViews : Instr → Bool
  | .evPalbyte .. | .frameLoad | .lineStart | .frameEnd => true
  | _ => false

/-- Every other command leaves the views alone, from any state. -/
theorem exec_views {i : Instr} (hi : changesViews i = false) (h : exec i s = .next t) : t.views = s.views := by
  cases i
  case evPalbyte | frameLoad | lineStart | frameEnd => cases hi
  case evLcdc | evScx | evScy | evWx => cases h; rfl
  case evBgp | evObp0 | evObp1 => cases h; rw [monoLatched_frame]; rfl
  case maskNormal | maskFrozen | maskBlack | maskColor | maskWhite => cases h; rfl
  case maskDispatch => obtain ⟨_, m, rfl⟩ := maskDispatch_frame h; rfl
  case idle => obtain rfl | ⟨q, rest, _, rfl⟩ := execIdle_cases h <;> simp
  case frameBegin => obtain rfl | ⟨inp, _, ⟨r, rfl⟩ | ⟨_, rfl⟩⟩ := execFrameBegin_cases h <;> simp
  case bufLock => obtain ⟨stride, rfl⟩ | rfl := execBufLock_cases h <;> simp
  case fill => obtain ⟨c, n, _, rfl⟩ := fill_frame h; rfl
  case palReload => rw [palReload_frame h]
  case lineBlank => rw [lineBlank_frame h]
  case objSearch => rw [objSearch_frame h]
  case pixel => obtain ⟨_, _, _, _, hf⟩ := pixel_frame h; rw [hf]
  case bgFetch => rw [bgFetch_frame h]
  case winFetch => rw [winFetch_frame h]
  case objPick => cases h; simp
  case prioMux | palLookup | lineEnd | bufUnlock | present => cases h; rfl
  case pixWrite => obtain ⟨_, _, rfl⟩ := pixWrite_frame h; rfl
  case borderRender => obtain rfl | rfl := execBorderRender_cases h <;> rfl
  case setColorPalette => cases h; exact State.setStore_views ..
  case setMonoPalette => cases h; rw [storeMono_frame]

/-- Views that stay bound keep VRAM and OAM (R71, R73). -/
theorem SameVideo.spaces {v w : Views} (h : SameVideo (some v) (some w)) :
    w.vram0 = v.vram0 ∧ w.vram1 = v.vram1 ∧ w.oam = v.oam := by
  obtain ⟨palram, hw⟩ := h.bound v rfl
  cases hw
  exact ⟨rfl, rfl, rfl⟩

/-- Settles O50: of the commands that can change the views, FRAME_END leaves none bound, and the two that store palette
bytes leave the other spaces. -/
theorem videoMemoryAndOamAreConstant : Obligations.VideoMemoryAndOamAreConstant := by
  intro i s t v w hload h hv hw
  cases hi : changesViews i
  case false =>
    obtain rfl : v = w := Option.some.inj (hv.symm.trans ((exec_views hi h).symm.trans hw))
    exact ⟨rfl, rfl, rfl, fun _ _ => rfl⟩
  case true =>
    cases i
    case frameLoad => exact absurd rfl hload
    case frameEnd => cases h; cases hw
    case lineStart =>
      have hsame := (lineStart_frame h).2.2
      rw [hv, hw] at hsame
      obtain ⟨hvram0, hvram1, hoam⟩ := hsame.spaces
      exact ⟨hvram0, hvram1, hoam, fun hi _ => absurd rfl hi⟩
    case evPalbyte c off d =>
      have hsame := (evPalbyte_frame (c := c) h).2
      rw [hv, hw] at hsame
      obtain ⟨hvram0, hvram1, hoam⟩ := hsame.spaces
      exact ⟨hvram0, hvram1, hoam, fun _ hi => absurd rfl (hi c off d)⟩
    all_goals cases hi

/-! ### Palette memory when MONO (R70) -/

theorem writePalram_mono (hm : s.cfg.hwMode = .mono) (off : BitVec 7) (d : Byte) :
    s.writePalram off d = .error (.absentSpace .palram) := by
  simp [State.writePalram, Space.present, hm]

/-- Settles O11: the store to palette memory, the event's first part, stops (R159). -/
theorem paletteByteEventStopsWhenMono : Obligations.PaletteByteEventStopsWhenMono := by
  intro s c off d hm
  show execEvPalbyte c off d s = _
  rw [execEvPalbyte, writePalram_mono hm]
  rfl

end Sys2Proof.Machine
end

section
/-! O1, O2: the decoder and the encoder undo each other, one format at a time (R111, R120, R121). -/

namespace Sys2Proof

variable {w : BitVec 64} {k : BitVec 4} {c : BitVec 32} {d : Byte} {i : Instr}

/-! ### Timed-event records (R111, R112) -/

/-- A record of a register target with its reserved fields clear is read by its target. -/
theorem decodeEvt_of_register (hk : recTarget w < 7) (hz : recZero w = 0) (ho : recOffset w = 0) :
    decodeEvt w = registerEvent (recTarget w) (recClock w) (recData w) := by
  have hne : recTarget w ≠ 7 := by bv_omega
  have hle : ¬ recTarget w > 7 := by bv_omega
  simp only [decodeEvt, if_neg hne, if_neg hle, hz, ho, ne_eq, not_true, if_false]

theorem decodeEvt_of_palbyte (hk : recTarget w = 7) (hz : recZero w = 0) :
    decodeEvt w = .ok (.evPalbyte (recClock w) (recOffset w) (recData w)) := by
  rw [decodeEvt, if_pos hk, if_pos hz]

theorem decodeEvt_evtWord (hk : k < 7) : decodeEvt (evtWord c k 0 d) = registerEvent k c d := by
  rw [decodeEvt_of_register] <;> simp only [recClock_evtWord, recTarget_evtWord, recZero_evtWord, recOffset_evtWord,
    recData_evtWord, hk]

theorem decodeEvt_evtWord_palbyte (o : BitVec 7) : decodeEvt (evtWord c 7 o d) = .ok (.evPalbyte c o d) := by
  rw [decodeEvt_of_palbyte (recTarget_evtWord ..) (recZero_evtWord ..), recClock_evtWord, recOffset_evtWord,
    recData_evtWord]

/-- A record that decodes is a palette byte or a register event, with the reserved fields of its kind clear (R113,
R130). -/
theorem decodeEvt_cases (h : decodeEvt w = .ok i) :
    (recTarget w = 7 ∧ recZero w = 0 ∧ i = .evPalbyte (recClock w) (recOffset w) (recData w))
      ∨ (recZero w = 0 ∧ recOffset w = 0 ∧ registerEvent (recTarget w) (recClock w) (recData w) = .ok i) := by
  unfold decodeEvt at h
  split_ifs at h with hpal hz _ hz ho
  · exact .inl ⟨hpal, hz, (Except.ok.inj h).symm⟩
  · exact .inr ⟨not_not.1 hz, not_not.1 ho, h⟩

/-- The command of a register target carries the target's number in its word (R112). -/
theorem encode_of_registerEvent (h : registerEvent k c d = .ok i) : i.wf = true ∧ encode i = .evt (evtWord c k 0 d) := by
  unfold registerEvent at h
  split_ifs at h <;> cases h <;> subst k <;> exact ⟨rfl, rfl⟩

theorem encode_of_decodeEvt (h : decodeEvt w = .ok i) : i.wf = true ∧ encode i = .evt w := by
  obtain ⟨hk, hz, rfl⟩ | ⟨hz, ho, hreg⟩ := decodeEvt_cases h
  · exact ⟨rfl, by rw [encode, ← hk, evtWord_of_fields hz]⟩
  · have hw := encode_of_registerEvent hreg
    rwa [← ho, evtWord_of_fields hz] at hw

/-! ### Mask words (R120, R133) -/

/-- The modes of `MASK_WHITE` are those no other mask command has. -/
theorem whiteMode_iff (m : BitVec 3) : m.getLsbD 2 = true ↔ m ≠ 0 ∧ m ≠ 1 ∧ m ≠ 2 ∧ m ≠ 3 := by revert m; decide

theorem decodeMask_maskWord (m : BitVec 3) (x : BitVec 15) : decodeMask (maskWord m x) =
    if m = 0 then .maskNormal x else if m = 1 then .maskFrozen x else if m = 2 then .maskBlack x
    else if m = 3 then .maskColor x else .maskWhite m x := by
  simp only [decodeMask, maskWord_mode, maskWord_k]

theorem encode_decodeMask_maskWord (m : BitVec 3) (x : BitVec 15) :
    (decodeMask (maskWord m x)).wf = true ∧ encode (decodeMask (maskWord m x)) = .mask (maskWord m x) := by
  rw [decodeMask_maskWord]
  split_ifs with h0 h1 h2 h3
  case neg => exact ⟨(whiteMode_iff m).2 ⟨h0, h1, h2, h3⟩, rfl⟩
  all_goals subst m; exact ⟨rfl, rfl⟩

theorem encode_decodeMask (w : BitVec 18) : (decodeMask w).wf = true ∧ encode (decodeMask w) = .mask w := by
  have h := encode_decodeMask_maskWord (w.extractLsb' 15 3) (w.extractLsb' 0 15)
  rwa [maskWord_of_fields] at h

/-! ### Sequencer codes (R121) -/

theorem encode_of_decodeSeq {w : BitVec 5} (h : decodeSeq w = .ok i) : i.wf = true ∧ encode i = .seq w := by
  unfold decodeSeq at h
  split at h <;> cases h <;> exact ⟨rfl, rfl⟩

/-! ### Both directions -/

/-- Settles O1: a record and a mask word give back the fields they are assembled of; a sequencer operation has no
operands. -/
theorem decodeOfEncodeIsIdentity : Obligations.DecodeOfEncodeIsIdentity := by
  intro i hwf
  cases i
  case evLcdc c d => exact decodeEvt_evtWord (k := 0) (by decide)
  case evScx c d => exact decodeEvt_evtWord (k := 1) (by decide)
  case evScy c d => exact decodeEvt_evtWord (k := 2) (by decide)
  case evWx c d => exact decodeEvt_evtWord (k := 3) (by decide)
  case evBgp c d => exact decodeEvt_evtWord (k := 4) (by decide)
  case evObp0 c d => exact decodeEvt_evtWord (k := 5) (by decide)
  case evObp1 c d => exact decodeEvt_evtWord (k := 6) (by decide)
  case evPalbyte c o d => exact decodeEvt_evtWord_palbyte o
  case maskNormal x => exact congrArg Except.ok (decodeMask_maskWord 0 x)
  case maskFrozen x => exact congrArg Except.ok (decodeMask_maskWord 1 x)
  case maskBlack x => exact congrArg Except.ok (decodeMask_maskWord 2 x)
  case maskColor x => exact congrArg Except.ok (decodeMask_maskWord 3 x)
  case maskWhite m x =>
    obtain ⟨h0, h1, h2, h3⟩ := (whiteMode_iff m).1 hwf
    rw [encode, decode, decodeMask_maskWord, if_neg h0, if_neg h1, if_neg h2, if_neg h3]
  all_goals rfl

/-- Settles O2: in each format the command is encoded from the fields it was read from, and an accepted record has no
other bits set. -/
theorem encodeOfDecodeIsTheWord : Obligations.EncodeOfDecodeIsTheWord := by
  intro c i h
  cases c with
  | evt w => exact encode_of_decodeEvt h
  | mask w => cases h; exact encode_decodeMask w
  | seq w => exact encode_of_decodeSeq h

/-- Settles O4: the decoder evaluates each of the ten words. -/
theorem specWordsDecode : Obligations.SpecWordsDecode := by
  unfold Obligations.SpecWordsDecode
  decide

end Sys2Proof
end

section
/-! O3, O22: the decoder against the opcode table (R140) and against the two logs (R130, R159). -/

namespace Sys2Proof

open Machine

/-- The word of every well-formed command selects exactly the row of its own mnemonic (R140). -/
theorem ownRow (i : Instr) : Laws.OwnRow.Statement i := by
  cases i
  case evLcdc c d => exact Laws.OwnRow.evLcdc c d
  case evScx c d => exact Laws.OwnRow.evScx c d
  case evScy c d => exact Laws.OwnRow.evScy c d
  case evWx c d => exact Laws.OwnRow.evWx c d
  case evBgp c d => exact Laws.OwnRow.evBgp c d
  case evObp0 c d => exact Laws.OwnRow.evObp0 c d
  case evObp1 c d => exact Laws.OwnRow.evObp1 c d
  case evPalbyte c o d => exact Laws.OwnRow.evPalbyte c o d
  case maskNormal x => exact Laws.OwnRow.maskNormal x
  case maskFrozen x => exact Laws.OwnRow.maskFrozen x
  case maskBlack x => exact Laws.OwnRow.maskBlack x
  case maskColor x => exact Laws.OwnRow.maskColor x
  case maskWhite m x => exact Laws.OwnRow.maskWhite m x
  all_goals exact Laws.OwnRow.of_row fun _ => rfl

/-- Every command has a row in the table (R140). -/
theorem exists_row_of_mnemonic (i : Instr) : ∃ r ∈ opcodeRows, r.1 = i.mnemonic := by
  rw [← List.mem_map]
  cases i <;> dsimp only [Instr.mnemonic] <;> decide

/-- A record whose fields name a row is a palette byte or a register event, and decodes. -/
theorem decodeEvt_of_row {w : BitVec 64} {n : String} (h : (Code.evt w).row = some n) : ∃ i, decodeEvt w = .ok i := by
  dsimp only [Code.row] at h
  split_ifs at h with hz hpal ho
  · exact ⟨_, decodeEvt_of_palbyte hpal hz⟩
  · obtain ⟨hk, -⟩ := List.getElem?_eq_some_iff.1 h
    obtain ⟨i, hi, -⟩ := applyRegister_eq (registerRecord_iff.2 ⟨BitVec.lt_def.2 hk, hz, ho⟩)
    exact ⟨i, hi⟩

/-- The sequencer codes the decoder accepts are those with a row (R121, R140). -/
theorem decodeSeq_isOk (w : BitVec 5) : (decodeSeq w).isOk = (Code.seq w).row.isSome := by revert w; decide

theorem decodeSeq_of_row {w : BitVec 5} {n : String} (h : (Code.seq w).row = some n) : ∃ i, decodeSeq w = .ok i := by
  have hok := decodeSeq_isOk w
  rw [h] at hok
  cases hd : decodeSeq w with
  | ok i => exact ⟨i, rfl⟩
  | error r => rw [hd] at hok; cases hok

/-- A word that selects a row of the table is a command (R140). -/
theorem decode_of_selects {c : Code} {r : String × Row} (hr : r ∈ opcodeRows) (h : c.selects r.2 = true) :
    ∃ i, decode c = .ok i := by
  have hrow := (selects_row c r hr).1 h
  cases c with
  | evt w => exact decodeEvt_of_row hrow
  | mask w => exact ⟨_, rfl⟩
  | seq w => exact decodeSeq_of_row hrow

/-- A command's word selects the row of the command's mnemonic and no other, because the word is the command's own
encoding. -/
theorem selects_iff_of_decode {c : Code} {i : Instr} (h : decode c = .ok i) {r : String × Row} (hr : r ∈ opcodeRows) :
    c.selects r.2 = true ↔ r.1 = i.mnemonic := by
  obtain ⟨hwf, rfl⟩ := encodeOfDecodeIsTheWord c i h
  exact ownRow i hwf r hr

/-- Settles O3: a command's word selects the command's own row, and a word that selects a row has the fields of a
command. -/
theorem decoderAgreesWithOpcodeTable : Obligations.DecoderAgreesWithOpcodeTable := by
  refine ⟨fun c => ⟨fun ⟨i, hi⟩ => ?_, fun ⟨r, hr, hsel⟩ => decode_of_selects hr hsel⟩,
    fun c i hi r hr => selects_iff_of_decode hi hr⟩
  obtain ⟨r, hr, hname⟩ := exists_row_of_mnemonic i
  exact ⟨r, hr, (selects_iff_of_decode hi hr).2 hname⟩

/-- Settles O22: the fields that admit a record to a log, as bits of the record's number; bits 27:8 are `zero` above
`offset`. -/
theorem logRecordsAdmitted : Obligations.LogRecordsAdmitted := by
  intro w
  refine ⟨?_, ?_, ?_⟩
  · rw [registerRecord_iff, BitVec.lt_def, ← BitVec.toNat_inj, ← BitVec.toNat_inj, recTarget_toNat, recZero_toNat,
      recOffset_toNat]
    show _ < 7 ∧ _ = 0 ∧ _ = 0 ↔ _
    omega
  · rw [paletteRecord_iff, ← BitVec.toNat_inj, ← BitVec.toNat_inj, recTarget_toNat, recZero_toNat]
    simp
  · rw [Bool.eq_false_iff, ne_eq, paletteRecord_iff]
    exact fun h => nomatch h.2.2

end Sys2Proof
end

section
/-! O8, O9, O10, O26: what one timed event writes (R152 to R159), and which events LINE_START applies (R151). -/

namespace Sys2Proof.Machine

open Sys2Proof.Claims

variable {s : State} {log : List (BitVec 64)}

/-! ### The register events (R152 to R158) -/

/-- When COLOR a palette latch event is the latch write alone (D12). -/
theorem setRegs_monoLatched_color (hm : s.cfg.hwMode = .color) (f : Regs → Regs) (d : Byte) (m : MonoTarget) :
    (s.setRegs f).monoLatched d m = { s with regs := f s.regs } := by
  simp only [State.monoLatched, State.setRegs_cfg, hm]
  rfl

/-- Settles O8: each of the four plain events is the latch write, and when COLOR no palette follows a palette latch. -/
theorem registerEventsWriteTheirLatch : Obligations.RegisterEventsWriteTheirLatch := fun _ _ d =>
  ⟨rfl, rfl, rfl, rfl, fun hm =>
    ⟨congrArg Host.Outcome.next (setRegs_monoLatched_color hm (fun r => { r with bgp := d }) d .bg),
      congrArg Host.Outcome.next (setRegs_monoLatched_color hm (fun r => { r with obp0 := d }) d .obj0),
      congrArg Host.Outcome.next (setRegs_monoLatched_color hm (fun r => { r with obp1 := d }) d .obj1)⟩⟩

/-- When MONO a palette latch event is the latch write followed by one call of `SET_MONO_PALETTE` (R182). -/
theorem monoWrites_monoLatched (hm : s.cfg.hwMode = .mono) (f : Regs → Regs) (d : Byte) (m : MonoTarget) :
    MonoWrites s (.next ((s.setRegs f).monoLatched d m)) (f s.regs) m d := by
  have hcall : (s.setRegs f).monoLatched d m = (s.setRegs f).callMono d m := by
    simp only [State.monoLatched, State.setRegs_cfg, hm]
  rw [hcall]
  exact ⟨_, rfl, callMono_frame .., storeAt_callMono _ d m⟩

/-- Settles O9: each of the three events is a latch write with its palette decoded after it. -/
theorem paletteLatchEventsWhenMono : Obligations.PaletteLatchEventsWhenMono := fun _ _ d hm =>
  ⟨monoWrites_monoLatched hm _ d .bg, monoWrites_monoLatched hm _ d .obj0, monoWrites_monoLatched hm _ d .obj1⟩

/-! ### The palette-byte event (R159) -/

/-- Settles O10: the palette memory after the event is the old one with one byte stored. -/
theorem paletteByteEventStoresAndRecomputes : Obligations.PaletteByteEventStoresAndRecomputes := by
  intro s v c off d hm hv
  obtain ⟨t, ht, hframe, hstore⟩ := evPalbyte_ok c off d hm hv
  exact ⟨t, _, ht, hframe, fun a => memGet_memSet .., hstore⟩

/-! ### The replay from a cursor into the whole log (R151, R162, R163) -/

/-- A cursor moved from `i` to `j` past the events that are due cuts the whole log where it cuts the rest of it, when the
events before `i` were due already. -/
theorem cursor_cuts_log {due later : BitVec 64 → Prop} {i j n : Nat} (hj : j = i + n) (hi : i ≤ log.length)
    (hn : n ≤ (log.drop i).length) (hdone : ∀ w ∈ log.take i, due w) (hdue : ∀ w ∈ (log.drop i).take n, due w)
    (hrest : ∀ w ∈ (log.drop i).drop n, later w) :
    (log.drop i).take n = (log.take j).drop i
      ∧ i ≤ j ∧ j ≤ log.length ∧ (∀ w ∈ log.take j, due w) ∧ ∀ w ∈ log.drop j, later w := by
  subst hj
  rw [List.length_drop] at hn
  rw [List.drop_drop] at hrest
  refine ⟨List.take_drop .., Nat.le_add_right .., by omega, ?_, hrest⟩
  rw [List.take_add, List.forall_mem_append]
  exact ⟨hdone, hdue⟩

/-- The register replay moves `rp` on to the end of the due events, and folds exactly the events it passes. -/
theorem replayRegisters_applies_due (hlog : LogOk registerRecord log) (hrp : s.rp ≤ log.length)
    (hdone : ∀ w ∈ log.take s.rp, (recClock w).toNat ≤ s.clk) :
    ∃ t, replayRegisters (log.drop s.rp) s = .next t
      ∧ t = { s with
          regs := ((log.take t.rp).drop s.rp).foldl latch s.regs, bgpal := t.bgpal, objpal := t.objpal,
          monoArg := t.monoArg, rp := t.rp }
      ∧ s.rp ≤ t.rp ∧ t.rp ≤ log.length
      ∧ (∀ w ∈ log.take t.rp, (recClock w).toNat ≤ s.clk) ∧ ∀ w ∈ log.drop t.rp, s.clk < (recClock w).toNat := by
  obtain ⟨t, n, ht, hn, hpos, hframe, hdue, hrest⟩ := replayRegisters_ok (log.drop s.rp) s (hlog.drop _)
  obtain ⟨hpassed, hcut⟩ := cursor_cuts_log hpos hrp hn hdone hdue hrest
  exact ⟨t, ht, hpassed ▸ hframe, hcut⟩

/-- The palette replay moves `pp` on to the end of the due events, and stores exactly the bytes it passes. -/
theorem replayPalette_applies_due {v : Views} (hv : s.views = some v) (hlog : LogOk (paletteRecord s.cfg.hwMode) log)
    (hpp : s.pp ≤ log.length) (hdone : ∀ w ∈ log.take s.pp, (recClock w).toNat < s.clk) :
    ∃ t, replayPalette (log.drop s.pp) s = .next t
      ∧ t = { s with
          views := some { v with palram := ((log.take t.pp).drop s.pp).foldl palByte v.palram },
          bgpal := t.bgpal, objpal := t.objpal, colorArg := t.colorArg, pp := t.pp }
      ∧ s.pp ≤ t.pp ∧ t.pp ≤ log.length
      ∧ (∀ w ∈ log.take t.pp, (recClock w).toNat < s.clk) ∧ ∀ w ∈ log.drop t.pp, s.clk ≤ (recClock w).toNat := by
  obtain ⟨t, n, ht, hn, hpos, hframe, hdue, hrest⟩ := replayPalette_ok (log.drop s.pp) s hv (hlog.drop _)
  obtain ⟨hpassed, hcut⟩ := cursor_cuts_log hpos hpp hn hdone hdue hrest
  exact ⟨t, ht, hpassed ▸ hframe, hcut⟩

/-- Settles O26: the two replays one after the other, each with a cursor and a target of its own, at the same clock. -/
theorem lineStartAppliesExactlyDueEvents : Obligations.LineStartAppliesExactlyDueEvents := by
  intro s inp v hinp hv ⟨hrlog, hplog⟩ ⟨hrp, hpp, hrdone, hpdone⟩
  obtain ⟨a, ha, haf, hrle, hrlen, hrdue, hrrest⟩ := replayRegisters_applies_due hrlog hrp hrdone
  have hacfg : a.cfg = s.cfg := by rw [haf]
  have haviews : a.views = s.views := by rw [haf]
  have haregs : a.regs = ((inp.rlog.take a.rp).drop s.rp).foldl latch s.regs := congrArg State.regs haf
  have haclk : a.clk = s.clk := by rw [haf]
  have happ : a.pp = s.pp := by rw [haf]
  obtain ⟨b, hb, hbf, hple, hplen, hpdue, hprest⟩ := replayPalette_applies_due (haviews.trans hv) (hacfg ▸ hplog)
    (happ ▸ hpp) (by rw [happ, haclk]; exact hpdone)
  have hbregs : b.regs = a.regs := by rw [hbf]
  have hbrp : b.rp = a.rp := by rw [hbf]
  have hbclk : b.clk = s.clk := by rw [hbf]; exact haclk
  rw [haclk] at hpdue hprest
  rw [happ] at hple hbf
  have hcaught : CaughtUp b inp := by
    simp only [CaughtUp, Consumed, hbrp, hbclk]
    exact ⟨⟨hrlen, hplen, hrdue, hpdue⟩, hrrest, hprest⟩
  refine ⟨b.setPhase (if lcdcEn b.regs.lcdc then .objSearch else .lineBlank), _, ?run, hcaught, ?frame, ?cursor, hple,
    ?latches, rfl, rfl⟩
  case run => simp only [exec, execLineStart, hinp, ha, hb, andThen]
  case frame => rw [hbf, haf]; rfl
  case cursor => rw [State.setPhase_rp, hbrp]; exact hrle
  case latches => rw [State.setPhase_regs, State.setPhase_rp, hbregs, hbrp, haregs]

end Sys2Proof.Machine
end

section
/-! O12, O13, O14, O15: the palette commands and PAL_RELOAD, from what each leaves of every entry of the store (R181,
R182, R185). -/

namespace Sys2Proof.Machine

/-- Settles O12: the command is one write to the store. -/
theorem setColorPaletteWritesOneEntry : Obligations.SetColorPaletteWritesOneEntry := fun _ =>
  ⟨_, rfl, setStore_frame .., fun _ _ _ => storeAt_setStore ..⟩

/-- Settles O13: the command is four writes to the store, one for each entry of its target's palette. -/
theorem setMonoPaletteWritesFourEntries : Obligations.SetMonoPaletteWritesFourEntries := fun s =>
  ⟨_, rfl, storeMono_frame s, storeAt_storeMono s⟩

/-- Settles O14: the list of entries that PAL_RELOAD goes through holds every entry of the store. -/
theorem palReloadRebuildsColorStore : Obligations.PalReloadRebuildsColorStore := by
  intro s v hm hv
  obtain ⟨t, ht, hframe, harg, hstore⟩ := reloadEntries_ok colorEntries s hm hv
  have hclear : t.colorArg = .clear := harg (by decide)
  refine ⟨t.setPhase .lineStart, ?run, ?frame, fun half p e => ?entry⟩
  case run => simp only [exec, execPalReload, hm, ht, ok_bind, ofExcept]
  case frame =>
    rw [hclear] at hframe
    exact congrArg (State.setPhase · .lineStart) hframe
  case entry => rw [storeAt_setPhase, hstore, if_pos (mem_colorEntries half p e)]

/-- When MONO the palettes of the three targets are in use (R41). -/
theorem paletteUsed_monoDest (m : MonoTarget) : paletteUsed .mono (monoDest m).1 (monoDest m).2 = true := by
  cases m <;> rfl

/-- The reload leaves each target's palette as its latch decodes (R185, R41). -/
theorem storeAt_reloadMono_monoDest (s : State) (m : MonoTarget) (e : BitVec 2) :
    s.reloadMono.storeAt (monoDest m).1 (monoDest m).2 e = monoRamp s.cfg m (monoEntry (monoLatch s.regs m) e) := by
  rw [storeAt_reloadMono]
  cases m <;> rfl

/-- The reload leaves a palette that MONO does not use as it was (R185, R41). -/
theorem storeAt_reloadMono_of_unused {s : State} {half : Bool} {p : BitVec 3} (h : paletteUsed .mono half p = false)
    (e : BitVec 2) : s.reloadMono.storeAt half p e = s.storeAt half p e := by
  have hdest (m : MonoTarget) : ¬ (half = (monoDest m).1 ∧ p = (monoDest m).2) := by
    rintro ⟨rfl, rfl⟩
    exact absurd (h.symm.trans (paletteUsed_monoDest m)) nofun
  rw [storeAt_reloadMono]
  exact (if_neg (hdest .obj1)).trans ((if_neg (hdest .obj0)).trans (if_neg (hdest .bg)))

/-- Settles O15: the three palettes in use and the thirteen others, told apart by `paletteUsed`. -/
theorem palReloadRebuildsMonoStore : Obligations.PalReloadRebuildsMonoStore := by
  intro s hm
  have hrun : exec .palReload s = .next (s.reloadMono.setPhase .lineStart) := by
    simp only [exec, execPalReload, hm, ok_bind, ofExcept]
  have hframe := reloadMono_frame s
  have hused := storeAt_reloadMono_monoDest s
  have hunused (half p e) (h : paletteUsed .mono half p = false) : s.reloadMono.storeAt half p e = s.storeAt half p e :=
    storeAt_reloadMono_of_unused h e
  generalize s.reloadMono = t at hrun hframe hused hunused
  exact ⟨t.setPhase .lineStart, hrun, congrArg (State.setPhase · .lineStart) hframe, hused, hunused⟩

end Sys2Proof.Machine
end

section
/-! O35, O36: the lanes of the two unpack tables (R187 to R189). -/

namespace Sys2Proof.Machine
open Sys2Proof.Claims

/-- Lane `n` of a byte pair is the index with the high byte's bit `n` above the low byte's (R81). -/
theorem laneBits_append (b0 b1 : Byte) {n : Nat} (hn : n < 8) :
    laneBits (b1 ++ b0) n = index2 (b1.getLsbD n) (b0.getLsbD n) := by
  have hhigh : (b1 ++ b0).getLsbD (8 + n) = b1.getLsbD n := by
    rw [BitVec.getLsbD_append, if_neg (by omega), Nat.add_sub_cancel_left]
  have hlow : (b1 ++ b0).getLsbD n = b0.getLsbD n := by
    rw [BitVec.getLsbD_append, if_pos hn]
  rw [laneBits, hhigh, hlow]
  cases b1.getLsbD n <;> cases b0.getLsbD n <;> rfl

/-- Settles O35: pixel `k` is lane `7 - k` of the one table and lane `k` of the other. -/
theorem unpackTablesHoldTheLanes : Obligations.UnpackTablesHoldTheLanes := by
  intro b0 b1 k
  rw [rowPixel_unpack, rowPixel_unpackFlip]
  exact ⟨laneBits_append b0 b1 (by omega), laneBits_append b0 b1 k.isLt⟩

/-- Settles O36: pixel `7 - k` of the flipped table and pixel `k` of the other are the same lane. -/
theorem flipTablesAreMirrored : Obligations.FlipTablesAreMirrored := by
  intro i k
  have hlane : (7 - k).toNat = 7 - k.toNat := by bv_omega
  rw [rowPixel_unpackFlip, rowPixel_unpack, hlane]

end Sys2Proof.Machine
end

section
/-! O59: the colour tables in the spec's arithmetic (R6, R183, R184). -/

namespace Sys2Proof.Machine
open Sys2Proof.Claims

/-! ### The width of a pixel (R6) -/

/-- The pixel mask of the machine is the spec's remainder. -/
theorem toPixel_eq_inWidth (f : PixelFormat) (p : Pixel) : toPixel f p = inWidth f p := by
  cases f with
  | pf32 => rfl
  | pf16 =>
    apply BitVec.eq_of_toNat_eq
    have hmask : p.toNat &&& 0xFFFF = p.toNat % 2 ^ 16 := Nat.and_two_pow_sub_one_eq_mod p.toNat 16
    have hmod : p.toNat % 2 ^ 16 % 2 ^ 32 = p.toNat % 2 ^ 16 := by omega
    simp only [toPixel, inWidth, BitVec.toNat_and, BitVec.toNat_ofNat]
    exact hmask.trans hmod.symm

/-! ### The default colours (R183) -/

theorem x8_toNat (v : BitVec 5) : (x8 v).toNat = channel8 v.toNat := by
  revert v; decide

/-- The high bit of a channel, the low bit of the 6-bit green. -/
theorem channelHigh_toNat (v : BitVec 5) : (v.extractLsb' 4 1).toNat = v.toNat >>> 4 := by
  revert v; decide

/-- The three channels of a raw colour (R119). -/
theorem channels_toNat (raw : BitVec 15) :
    (raw.extractLsb' 0 5).toNat = raw.toNat % 32 ∧ (raw.extractLsb' 5 5).toNat = raw.toNat / 32 % 32
      ∧ (raw.extractLsb' 10 5).toNat = raw.toNat / 1024 := by
  have := raw.isLt
  simp only [BitVec.extractLsb'_toNat, Nat.shiftRight_eq_div_pow, Nat.reducePow, Nat.div_one, true_and]
  omega

/-- The concatenated channels of the default colour are the spec's shifts and ors. -/
theorem defaultColor_toNat (f : PixelFormat) (raw : BitVec 15) :
    (defaultColor f raw).toNat = lutDefault f raw.toNat := by
  obtain ⟨hr, hg, hb⟩ := channels_toNat raw
  cases f with
  | pf32 =>
    simp only [defaultColor, lutDefault, BitVec.toNat_append, x8_toNat, hr, hg, hb, Nat.shiftLeft_or_distrib,
      ← Nat.shiftLeft_add]
    rfl
  | pf16 =>
    simp only [defaultColor, lutDefault, BitVec.toNat_append, channelHigh_toNat, hr, hg, hb, Nat.shiftLeft_or_distrib,
      ← Nat.shiftLeft_add]
    simp

/-- The channels of a 16-bit default colour fill its 16 bits and no more. -/
theorem lutDefault_pf16_lt (raw : BitVec 15) : lutDefault .pf16 raw.toNat < 2 ^ 16 := by
  have := raw.isLt
  have hred : (raw.toNat % 32) <<< 11 < 2 ^ 16 := Nat.shiftLeft_lt (n := 5) (by omega)
  have hgreen : (raw.toNat / 32 % 32) <<< 1 ||| (raw.toNat / 32 % 32) >>> 4 < 2 ^ 6 :=
    Nat.or_lt_two_pow (Nat.shiftLeft_lt (n := 5) (by omega)) (by omega)
  exact Nat.or_lt_two_pow (Nat.or_lt_two_pow hred (Nat.shiftLeft_lt (hgreen.trans (by decide)))) (by omega)

/-- A default colour has the width of its format already. -/
theorem toPixel_defaultColor (f : PixelFormat) (raw : BitVec 15) :
    toPixel f (defaultColor f raw) = defaultColor f raw := by
  cases f with
  | pf32 => rfl
  | pf16 =>
    have hlt : (defaultColor .pf16 raw).toNat < 2 ^ 16 := defaultColor_toNat .pf16 raw ▸ lutDefault_pf16_lt raw
    rw [toPixel_eq_inWidth, inWidth, Nat.mod_eq_of_lt hlt, BitVec.ofNat_toNat, BitVec.setWidth_eq]

/-! ### The ramps (R184) -/

/-- A ramp colour by its place in the list of the twelve configured ones. -/
theorem monoRamp_eq_getD (c : Config) (t : MonoTarget) (j : BitVec 2) :
    monoRamp c t j = inWidth c.format (c.ramp.toList.getD ((rampRow t).val * 4 + j.toNat) 0) := by
  have hi : (rampRow t).val * 4 + j.toNat < 12 := by omega
  rw [monoRamp, toPixel_eq_inWidth, List.getD_eq_getElem _ _ (by simpa using hi), Vector.getElem_toList]

/-- Each of the three default ramps holds the four greys. -/
theorem monoRamp_default (m : HwMode) (f : PixelFormat) (bias : Int) (t : MonoTarget) (j : BitVec 2) :
    monoRamp (Config.default m f bias) t j = rampDefault f j := by
  have hcol : ((rampRow t).val * 4 + j.toNat) % 4 = j.toNat := by omega
  have hgrey : ∀ j : BitVec 2, toPixel f (f.greys.getD j.toNat 0) = rampDefault f j := by cases f <;> decide
  rw [monoRamp, ← hgrey]
  simp only [Config.default, Vector.getElem_ofFn, hcol]

/-! ### The tables -/

/-- `COLOR_LUT` without a listed entry is the default one (R183). -/
theorem colorLut_nil_toNat (c : Config) (raw : BitVec 15) :
    (colorLut { c with lut := [] } raw).toNat = lutDefault c.format raw.toNat := by
  rw [← defaultColor_toNat, ← toPixel_defaultColor]
  rfl

/-- The first entry listed for an index is the one read (log 2). -/
theorem colorLut_cons (c : Config) (raw : BitVec 15) (b : Nat) (p : Pixel) (rest : List (Nat × Pixel)) :
    colorLut { c with lut := (b, p) :: rest } raw =
      if b = raw.toNat then inWidth c.format p else colorLut { c with lut := rest } raw := by
  simp only [colorLut, lookupCell, eq_comm (a := b), ← toPixel_eq_inWidth]
  split <;> rfl

/-- Settles O59: the tables of any configuration, then those of a default one. -/
theorem colorTablesHoldTheirContents : Obligations.ColorTablesHoldTheirContents := by
  refine ⟨fun c raw b p rest => ⟨colorLut_nil_toNat c raw, colorLut_cons c raw b p rest⟩, fun c => ?any,
    fun m f bias => ?default⟩
  case any =>
    refine ⟨toPixel_eq_inWidth .., toPixel_eq_inWidth .., fun j => ?_⟩
    simp [monoRamp_eq_getD, rampRow]
  case default =>
    have hblack : blackPixel (Config.default m f bias) = blackPixel (Config.default .mono f 0) := rfl
    have hwhite : whitePixel (Config.default m f bias) = whitePixel (Config.default .mono f 0) := rfl
    have hlut (raw : BitVec 15) : colorLut (Config.default m f bias) raw = colorLut (Config.default .mono f 0) raw :=
      rfl
    refine ⟨rfl, monoRamp_default m f bias, ?_⟩
    rw [hblack, hwhite, hlut, hlut]
    cases f <;> decide

end Sys2Proof.Machine
end

section
/-! O29, O30: sprite search as one record for each of the first ten covering entries (R210 to R222), and the pick from the
candidates that show an opaque pixel (R221). -/

namespace Sys2Proof.Machine
open Sys2Proof.Claims

variable {s : State} {v : Views} {c : Candidate} {x : Nat} {i : BitVec 2}

/-! ### The parts of a candidate record (R213 to R219) -/

/-- The three palette bits are the attribute byte modulo 8 (R116). -/
theorem attrCpal_eq_ofNat (a : Byte) : attrCpal a = BitVec.ofNat 3 (a.toNat % 8) := by
  revert a; decide

/-- The tile number used, in the spec's arithmetic: of a 16 high object it is even (R214). -/
theorem objTile_toNat (h : Nat) (n : Byte) : (objTile h n).toNat = if h = 16 then n.toNat / 2 * 2 else n.toNat := by
  have heven : (n &&& 0xFE).toNat = n.toNat / 2 * 2 := by revert n; decide
  unfold objTile
  split
  · exact heven
  · rfl

/-- The palette of an object by the hardware mode, in the spec's arithmetic (R218). -/
theorem objPalette_eq (m : HwMode) (a : Byte) :
    objPalette m a = if m = .color then BitVec.ofNat 3 (a.toNat % 8) else if a.getLsbD 4 then 1 else 0 := by
  cases m with
  | color => exact attrCpal_eq_ofNat a
  | mono => rfl

/-- The view that holds an object's tile data (R215). -/
theorem views_get_objBank (v : Views) (m : HwMode) (a : Byte) :
    v.get (objBank m a) = if m = .color ∧ a.getLsbD 3 then v.vram1 else v.vram0 := by
  unfold objBank attrBank
  split <;> rfl

/-- Pixel `k` of a candidate's row, in the spec's arithmetic (R187, R188, R216). -/
theorem unpackRow_pixel (flip : Bool) (b0 b1 : Byte) {k : Nat} (hk : k < 8) :
    (unpackRow flip (b0, b1)).extractLsb' (2 * k) 2 =
      let n := if flip then k else 7 - k
      index2 (b1.getLsbD n) (b0.getLsbD n) := by
  have hpixel := rowPixel_unpackRow flip (b0, b1) (BitVec.ofNat 3 k)
  rw [rowPixel, BitVec.toNat_ofNat, Nat.mod_eq_of_lt hk] at hpixel
  exact hpixel.trans (laneBits_append b0 b1 (by split <;> omega))

/-! ### The search (R210, R212, R222) -/

/-- The record sprite search writes for entry `j` of bound views, when the entry covers the line. -/
def State.entryCandidate (s : State) (v : Views) (j : Nat) : Candidate :=
  let o := v.oamEntry j
  let bank := v.get (objBank s.cfg.hwMode o.attr)
  candidateOf s.cfg.hwMode o (memGet bank (s.entryAddr o), memGet bank (s.entryAddr o + 1))

/-- Sprite search writes a record for the covering entries and for no other (R211). -/
theorem entryFound_eq (s : State) (v : Views) (j : Nat) :
    s.entryFound v j = if covers s v j then some (s.entryCandidate v j) else none := rfl

/-- The row of tile data an entry shows, in the spec's arithmetic (R213, R214). -/
theorem entryAddr_eq (s : State) (v : Views) (j : Nat) :
    s.entryAddr (v.oamEntry j) =
      let n := (memGet v.oam (4 * j + 2)).toNat
      let r0 := (s.ly - top s v j).toNat
      16 * (if height s = 16 then n / 2 * 2 else n)
        + 2 * (if (memGet v.oam (4 * j + 3)).getLsbD 6 then height s - 1 - r0 else r0) :=
  congrArg (16 * · + 2 * _) (objTile_toNat ..)

/-- The record written for an entry is the one R222 describes. -/
theorem isCandidate_entryCandidate (s : State) (v : Views) (j : Nat) : isCandidate s v j (s.entryCandidate v j) := by
  refine ⟨rfl, ?right, rfl, objPalette_eq .., fun k hk => ?row⟩
  case right => exact Int.sub_add_cancel ..
  case row =>
    simp only [State.entryCandidate, candidateOf, views_get_objBank, entryAddr_eq, unpackRow_pixel _ _ _ hk]
    rfl

/-- The entries found are the records of the covering entries, in the order of the list. -/
theorem filterMap_entryFound (s : State) (v : Views) (l : List Nat) :
    l.filterMap (s.entryFound v) = (l.filter (covers s v)).map (s.entryCandidate v) := by
  rw [← List.filterMap_eq_map, List.filterMap_filter]
  rfl

theorem execObjSearch_eq {found : List Candidate} (h : s.searchLine = .ok found) :
    execObjSearch s = .next { s with cands := found, x := 0, phase := .pixel } := by
  rw [execObjSearch, h]
  rfl

/-- Settles O29: the buffer is the image of the first ten covering entries under `entryCandidate`. -/
theorem objSearchSelectsFirstTen : Obligations.ObjSearchSelectsFirstTen := by
  refine ⟨fun s hoff => ?disabled, fun s v hv hon => ?enabled⟩
  case disabled =>
    have hfound : s.searchLine = .ok [] := if_neg (Bool.eq_false_iff.1 hoff)
    exact execObjSearch_eq hfound
  case enabled =>
    have hoen : lcdcOen s.regs.lcdc = true := hon
    have hfound : s.searchLine =
        .ok ((((List.range 40).filter (covers s v)).take 10).map (s.entryCandidate v)) := by
      rw [searchLine_ok hv, if_pos hoen, filterMap_entryFound, ← List.map_take]
      rfl
    refine ⟨_, execObjSearch_eq hfound, rfl, ?_⟩
    rw [List.forall₂_map_right_iff, List.forall₂_same]
    exact fun j _ => isCandidate_entryCandidate s v j

/-! ### The pick (R221) -/

theorem opaqueAt_iff_opaquePixel : c.opaqueAt x = true ↔ ∃ i, opaquePixel c x i := by
  simp only [opaqueAt_iff, opaquePixel]
  exact ⟨fun ⟨hl, hr, h0⟩ => ⟨_, hl, hr, rfl, h0⟩, fun ⟨_, hl, hr, hi, h0⟩ => ⟨hl, hr, hi ▸ h0⟩⟩

theorem indexAt_of_opaquePixel (h : opaquePixel c x i) : c.indexAt x = some i := by
  obtain ⟨hl, hr, hi, -⟩ := h
  rw [Candidate.indexAt, if_pos ⟨hl, hr⟩, hi]

theorem pickCandidate_eq_none {l : List Candidate} (h : ∀ c ∈ l, ∀ i, ¬ opaquePixel c x i) :
    pickCandidate x l = none :=
  List.find?_eq_none.2 fun c hc hop => (opaqueAt_iff_opaquePixel.1 hop).elim (h c hc)

/-- The first candidate with an opaque pixel at the column is picked (D13). -/
theorem pickCandidate_append_cons {before after : List Candidate} (hbefore : ∀ d ∈ before, ∀ j, ¬ opaquePixel d x j)
    (hc : opaquePixel c x i) : pickCandidate x (before ++ c :: after) = some c := by
  have hop : c.opaqueAt x = true := opaqueAt_iff_opaquePixel.2 ⟨i, hc⟩
  have hnone : before.find? (·.opaqueAt x) = none := pickCandidate_eq_none hbefore
  rw [pickCandidate, List.find?_append, hnone, Option.none_or]
  exact List.find?_cons_of_pos hop

/-- Settles O30: the two cases of the pick, each with its transients. -/
theorem objPickTakesFirstOpaque : Obligations.ObjPickTakesFirstOpaque := by
  refine fun s => ⟨fun hall => ?none, fun before c after i hsplit hbefore hc => ?some⟩
  case none =>
    have hpick := pickCandidate_eq_none hall
    show execObjPick s = _
    rw [execObjPick, State.objPick, hpick]
  case some =>
    have hpick : pickCandidate s.x s.cands = some c := hsplit ▸ pickCandidate_append_cons hbefore hc
    show execObjPick s = _
    rw [execObjPick, State.objPick, hpick]
    simp only [indexAt_of_opaquePixel hc, Option.getD_some]

end Sys2Proof.Machine
end

section
/-! O31, O32, O33: TILE_PIXEL in the spec's arithmetic (R244, R245), and the two fetches as one tile pixel each (R241,
R250), put into the transients (R240). -/

namespace Sys2Proof.Machine
open Sys2Proof.Claims

variable {s : State} {v : Views}

/-! ### The parts of a tile pixel (R117, R126, R187, R188) -/

/-- The base of a tile's data, as R245 tabulates the signed indices. -/
theorem tileBase_eq (unsigned : Bool) (idx : Byte) : tileBase unsigned idx =
    if unsigned then 16 * idx.toNat else if idx.toNat < 128 then 0x1000 + 16 * idx.toNat else 16 * idx.toNat := by
  have hidx := idx.isLt
  have hsigned : idx.toInt = if idx.toNat < 128 then (idx.toNat : Int) else idx.toNat - 256 := by
    rw [BitVec.toInt_eq_toNat_cond]
    split <;> split <;> omega
  cases unsigned with
  | true => rfl
  | false =>
    simp only [tileBase, hsigned, Bool.false_eq_true, if_false]
    split <;> omega

/-- The view that holds a map cell's tile data (R117, R244). -/
theorem views_get_mattrBank (v : Views) (a : Byte) : v.get (mattrBank a) = if a.getLsbD 3 then v.vram1 else v.vram0 := by
  unfold mattrBank
  split <;> rfl

/-- Pixel `k` of an unpacked row of two bytes, in the spec's arithmetic (R187, R188). -/
theorem rowPixel_unpackRow_ofNat (flip : Bool) (b0 b1 : Byte) {k : Nat} (hk : k < 8) :
    rowPixel (unpackRow flip (b0, b1)) (BitVec.ofNat 3 k) =
      let n := if flip then k else 7 - k
      index2 (b1.getLsbD n) (b0.getLsbD n) := by
  rw [rowPixel, BitVec.toNat_ofNat, Nat.mod_eq_of_lt hk]
  exact unpackRow_pixel flip b0 b1 hk

/-! ### A pixel of a layer (R240, R244) -/

/-- What a layer supplies where it shows the tile pixel `o`. -/
def BgPixel.ofTile (o : BitVec 2 × BitVec 3 × Bool) : BgPixel := ⟨o.1, o.2.1, o.2.2, true⟩

/-- `TILE_PIXEL` of bound views is the tile pixel of the spec's arithmetic (R244). -/
theorem tilePixel_eq_tile (hv : s.views = some v) (second : Bool) {p : Nat × Nat} (h1 : p.1 < 256) (h2 : p.2 < 256) :
    s.tilePixel (mapBase second) p = .ok (.ofTile
      (tile s v (if second then 0x1C00 else 0x1800) (p.1 / 8) (p.2 / 8) (p.1 % 8) (p.2 % 8))) := by
  have hfine : p.2 % 8 < 8 := Nat.mod_lt _ (by omega)
  unfold State.tilePixel
  rw [tileRow_ok hv second (by omega) (by omega) (Nat.mod_lt _ (by omega)), ok_bind]
  simp only [rowPixel_unpackRow_ofNat _ _ _ hfine, views_get_mattrBank, tileRowAddr, tileBase_eq]
  exact congrArg (fun pal => Except.ok (BgPixel.mk _ pal _ true)) (attrCpal_eq_ofNat _)

/-- The background pixel where the background is enabled (R241, R242). -/
theorem bgPixel_eq_tile (hv : s.views = some v) (hben : lcdcBen s.regs.lcdc = true) :
    let p := bgPlane s.regs s.ly s.x
    s.bgPixel = .ok (.ofTile (tile s v (if lcdcBmap s.regs.lcdc then 0x1C00 else 0x1800)
      (p.1 / 8) (p.2 / 8) (p.1 % 8) (p.2 % 8))) := by
  rw [State.bgPixel, if_pos hben]
  exact tilePixel_eq_tile hv _ (bgPlane_lt ..).1 (bgPlane_lt ..).2

/-- The window pixel where the window is active (R249, R250). -/
theorem winPixel_eq_tile (hv : s.views = some v) (hl : s.ly < lines) (hx : s.x < width)
    (hwin : winActive s.regs s.ly s.x = true) :
    let wpy := s.ly - s.regs.wy.toNat
    let wpx := s.x + 7 - s.regs.wx.toNat
    s.winPixel = .ok (.ofTile (tile s v (if lcdcWmap s.regs.lcdc then 0x1C00 else 0x1800)
      (wpy / 8) (wpx / 8) (wpy % 8) (wpx % 8))) := by
  obtain ⟨hrow, hcol⟩ := winPlane_lt hwin hl hx
  rw [State.winPixel, tilePixel_eq_tile hv _ hrow hcol, winPlane_eq hwin]

theorem execBgFetch_eq {o : BgPixel} (h : s.bgPixel = .ok o) : execBgFetch s = .next (s.setBgPixel o) := by
  rw [execBgFetch, State.bgFetch, h]
  rfl

theorem execWinFetch_eq {o : BgPixel} (hwin : winActive s.regs s.ly s.x = true) (h : s.winPixel = .ok o) :
    execWinFetch s = .next (s.setBgPixel o) := by
  rw [execWinFetch, if_pos hwin, State.winFetch, h]
  rfl

/-- Settles O31: the background supplies its tile pixel, or nothing where it is disabled. -/
theorem bgFetchReadsThePlane : Obligations.BgFetchReadsThePlane :=
  ⟨fun _ hoff => execBgFetch_eq (bgPixel_off hoff), fun _ _ hv hben => execBgFetch_eq (bgPixel_eq_tile hv hben)⟩

/-- Settles O32: the three conditions are those of an active window, which supplies its tile pixel. -/
theorem winFetchReadsTheWindow : Obligations.WinFetchReadsTheWindow := fun _ _ hv hl hx hwen hwy hwx =>
  have hwin := winActive_iff.2 ⟨hwen, hwy, hwx⟩
  execWinFetch_eq hwin (winPixel_eq_tile hv hl hx hwin)

/-- Settles O33: the free pixel, with its palette number and its priority bit masked when MONO. -/
theorem winFetchOutsideTheWindowIsFree : Obligations.WinFetchOutsideTheWindowIsFree := by
  intro s hout
  have hfree : execWinFetch s = .next s.winFetchFree := if_neg (mt winActive_iff.1 hout)
  refine ⟨(_, bgPalOf s.cfg.hwMode _, tilePrioOf s.cfg.hwMode _), hfree, fun hm => ?mono⟩
  case mono => rw [hm]; rfl

end Sys2Proof.Machine
end

section
/-! O34: rolling the cursor (R253, R254) keeps it where FETCH is (R255), and FETCH is one pixel of the row the cursor
holds. -/

namespace Sys2Proof.Machine
open Sys2Proof.Claims

variable {s : State} {v : Views} {c : Cursor} {r : Regs} {win : Bool} {ly x : Nat}

/-! ### The fetch function (R240) -/

/-- `FETCH` of bound views is the one of the spec's arithmetic (R240, R248 to R251). -/
theorem fetchValue_eq_fetchAt (hv : s.views = some v) (hl : s.ly < lines) (hx : s.x < width) :
    s.fetchValue = .ok (fetchAt s v) := by
  unfold State.fetchValue fetchAt
  by_cases hwin : winActive s.regs s.ly s.x = true
  · have hin : inWindow s := winActive_iff.1 hwin
    rw [if_pos hwin, if_pos hin]
    exact winPixel_eq_tile hv hl hx hwin
  · have hout : ¬ inWindow s := mt winActive_iff.2 hwin
    rw [if_neg hwin, if_neg hout]
    by_cases hben : lcdcBen s.regs.lcdc = true
    · exact (bgPixel_eq_tile hv hben).trans (congrArg Except.ok (if_pos hben).symm)
    · exact (bgPixel_off (Bool.eq_false_iff.2 hben)).trans (congrArg Except.ok (if_neg hben).symm)

/-- `FETCH` is one pixel of the row that a refetch at its plane position loads: a blank one where no layer is on. -/
theorem fetchValue_eq_cursorRow (s : State) :
    let win := winActive s.regs s.ly s.x
    let p := sourcePlane win s.regs s.ly s.x
    s.fetchValue = s.cursorRow win (p.1 / 8) (p.2 / 8) (p.1 % 8) >>= fun t =>
      .ok ⟨rowPixel t.1 (BitVec.ofNat 3 (p.2 % 8)), mattrPal t.2, mattrPrio t.2, win || lcdcBen s.regs.lcdc⟩ := by
  have hblank (k : BitVec 3) : rowPixel 0 k = 0 := by revert k; decide
  simp only [State.fetchValue, State.cursorRow, sourcePlane, State.bgPixel]
  cases winActive s.regs s.ly s.x with
  | true => rfl
  | false =>
    cases lcdcBen s.regs.lcdc with
    | true => rfl
    | false => exact congrArg (fun idx => Except.ok (BgPixel.mk idx 0 false false)) (hblank _).symm

/-- A cursor that stands right at the current column outputs what `FETCH` gives there (R255). -/
theorem CursorAt.output_eq {o : BgPixel} (h : CursorAt s c s.x) (ho : s.fetchValue = .ok o) :
    c.output = (o.idx, o.pal, o.prio) := by
  obtain ⟨hwin, hrow, hcol, hfine, a, hcontent, hpal, hprio⟩ := h
  rw [fetchValue_eq_cursorRow, ← hwin, ← hrow, ← hcol, ← hfine, hcontent, ok_bind] at ho
  cases ho
  simp only [Cursor.output, hpal, hprio, BitVec.ofNat_toNat, BitVec.setWidth_eq]

/-! ### Plane positions along a line (R242, R249) -/

theorem sourcePlane_lt (hl : ly < lines) (hx : x < width) :
    let p := sourcePlane (winActive r ly x) r ly x
    p.1 < 256 ∧ p.2 < 256 := by
  unfold sourcePlane
  split
  · next hwin => exact winPlane_lt hwin hl hx
  · exact bgPlane_lt r ly x

/-- One column further on the screen is one pixel further in the plane, where the source stays (R242, R249). -/
theorem sourcePlane_succ (hwin : winActive r ly x = win) (hx : x + 1 < width) :
    sourcePlane win r ly (x + 1) = ((sourcePlane win r ly x).1, ((sourcePlane win r ly x).2 + 1) % 256) := by
  cases win with
  | false => simp [sourcePlane, bgPlane, Nat.add_assoc]
  | true =>
    have hnext := winActive_mono hwin (Nat.le_succ x)
    obtain ⟨-, -, hwx⟩ := winActive_iff.1 hwin
    simp only [width] at hx
    simp only [sourcePlane, if_true, winPlane_eq hwin, winPlane_eq hnext, Prod.mk.injEq, true_and]
    omega

/-! ### Rolling (R253, R254) -/

/-- A refetch at the plane position of column `x` makes the cursor stand right there (R253). -/
theorem refetch_cursorAt (hv : s.views = some v) {row col : BitVec 5} {fine : BitVec 3}
    (hwin : win = winActive s.regs s.ly x)
    (hrow : row.toNat = (sourcePlane win s.regs s.ly x).1 / 8) (hcol : col.toNat = (sourcePlane win s.regs s.ly x).2 / 8)
    (hfine : fine.toNat = (sourcePlane win s.regs s.ly x).2 % 8) :
    ∃ c, s.refetch win row col ((sourcePlane win s.regs s.ly x).1 % 8) fine = .ok c ∧ CursorAt s c x := by
  obtain ⟨t, ht⟩ := cursorRow_ok hv win row.isLt col.isLt (Nat.mod_lt (sourcePlane win s.regs s.ly x).1 (by omega))
  refine ⟨⟨row, col, t.1, mattrPal t.2, mattrPrio t.2, fine, win⟩, ?_, hwin, hrow, hcol, hfine, t.2, ht, rfl, rfl⟩
  rw [State.refetch, ht]
  rfl

/-- Aiming the cursor makes it stand right at the current column, whatever it held (R254). -/
theorem aimCursor_cursorAt (hv : s.views = some v) (hl : s.ly < lines) (hx : s.x < width) :
    ∃ c, s.aimCursor = .ok c ∧ CursorAt s c s.x := by
  obtain ⟨hrow, hcol⟩ := sourcePlane_lt (r := s.regs) hl hx
  refine refetch_cursorAt hv rfl ?_ ?_ ?_ <;> rw [BitVec.toNat_ofNat] <;> omega

/-- Moving on within a map cell keeps the row the cursor holds (R253). -/
theorem CursorAt.next_fine (h : CursorAt s c x) (hwin : winActive s.regs s.ly (x + 1) = c.winActive)
    (hx : x + 1 < width) (hfine : c.fine ≠ 7) : CursorAt s { c with fine := c.fine + 1 } (x + 1) := by
  obtain ⟨hat, hrow, hcol, hpix, hcontent⟩ := h
  have hnext := sourcePlane_succ hat.symm hx
  have hlt : c.fine.toNat < 7 := by bv_omega
  have hsucc : (c.fine + 1).toNat = c.fine.toNat + 1 := by bv_omega
  have hcol32 := c.mapCol.isLt
  constructor <;> simp only [hnext, hsucc]
  · exact hwin.symm
  · exact hrow
  · omega
  · omega
  · exact hcontent

/-- Moving on from the last pixel of a map cell loads the next cell of the map's row, from the last one back to the first
(R253). -/
theorem CursorAt.next_cell (h : CursorAt s c x) (hv : s.views = some v)
    (hwin : winActive s.regs s.ly (x + 1) = c.winActive) (hx : x + 1 < width) (hfine : c.fine = 7) :
    ∃ d, s.refetch c.winActive c.mapRow (c.mapCol + 1) ((sourcePlane c.winActive s.regs s.ly (x + 1)).1 % 8) 0 = .ok d
      ∧ CursorAt s d (x + 1) := by
  obtain ⟨hat, hrow, hcol, hpix, -⟩ := h
  have hnext := sourcePlane_succ hat.symm hx
  have hlast : c.fine.toNat = 7 := by rw [hfine]; rfl
  have hsucc : (c.mapCol + 1).toNat = (c.mapCol.toNat + 1) % 32 := BitVec.toNat_add ..
  refine refetch_cursorAt hv hwin.symm ?_ ?_ ?_ <;> rw [hnext] <;> dsimp only
  · exact hrow
  · omega
  · rw [BitVec.ofNat_eq_ofNat, BitVec.toNat_zero]; omega

/-- Rolling a cursor that stood right at the column before makes it stand right at the current one (R253, R254). -/
theorem rollCursor_cursorAt (hv : s.views = some v) (hl : s.ly < lines) (hx : s.x < width)
    (h : s.x = 0 ∨ CursorAt s s.cursor (s.x - 1)) : ∃ c, s.rollCursor = .ok c ∧ CursorAt s c s.x := by
  simp only [State.rollCursor]
  split
  case isTrue => exact aimCursor_cursorAt hv hl hx
  case isFalse hroll =>
    obtain ⟨hx0, hstart⟩ := not_or.1 hroll
    obtain ⟨x, hsx⟩ := Nat.exists_eq_succ_of_ne_zero hx0
    have hat : CursorAt s s.cursor x := by simpa [hsx] using h.resolve_left hx0
    rw [hsx] at hx hstart ⊢
    have hwin : winActive s.regs s.ly (x + 1) = s.cursor.winActive := by
      cases hc : s.cursor.winActive with
      | false => simpa [hc] using hstart
      | true => exact winActive_mono (hat.win ▸ hc) (Nat.le_succ x)
    split
    · next hfine => exact hat.next_cell hv hwin hx hfine
    · next hfine => exact ⟨_, rfl, hat.next_fine hwin hx hfine⟩

/-- Settles O34: `FETCH` is the spec's, the cursor rolls to the current column, and there it outputs `FETCH`. -/
theorem cursorAgreesWithFetch : Obligations.CursorAgreesWithFetch := by
  intro s v hv hl hx hprev
  have hfetch := fetchValue_eq_fetchAt hv hl hx
  obtain ⟨c, hroll, hat⟩ := rollCursor_cursorAt hv hl hx hprev
  exact ⟨hfetch, c, hroll, hat, hat.output_eq hfetch⟩

end Sys2Proof.Machine
end

section
/-! O39, O40, O41, O42: the priority table (R280, R281), the lookup (R282, R283), the write of one pixel (R285), and PIXEL,
which composes them with the fetch and the pick (R286). -/

namespace Sys2Proof.Machine
open Sys2Proof.Claims

variable {s : State} {v : Views}

/-! ### The priority table (R280, R281) -/

/-- The object is shown where it is opaque and lies over a zero index or over a background without priority (R280). -/
theorem priority_eq_obj_iff {objOpaque objPrio bgZero tilePrio : Bool} :
    priority objOpaque objPrio bgZero tilePrio = .obj ↔
      objOpaque = true ∧ (bgZero = true ∨ (tilePrio = false ∧ objPrio = true)) := by
  cases objOpaque with
  | false => simp [priority]
  | true =>
    cases bgZero with
    | true => simp [priority]
    | false => simp [priority]

/-- Settles O39: the table itself when COLOR, and the table without a tile priority bit when MONO. -/
theorem prioMuxIsThePriorityTable : Obligations.PrioMuxIsThePriorityTable := by
  refine fun s => ⟨_, rfl, fun hm => ?color, fun hm => ?mono⟩
  case color => simp only [prioSelect, priority_eq_obj_iff, tilePrioOf, hm, decide_true, Bool.true_and]
  case mono => simp [prioSelect, priority_eq_obj_iff, tilePrioOf, hm]

/-! ### The lookup (R282, R283) -/

/-- The object side shows its entry of the object half of the store (R283). -/
theorem lookupOut_obj (h : s.pix.sel = .obj) : s.lookupOut = s.storeAt true s.pix.objPal s.pix.objIdx := by
  rw [State.lookupOut, h]
  rfl

theorem lookupOut_bg (h : s.pix.sel = .bg) : s.lookupOut = s.bgOut := by
  rw [State.lookupOut, h]

/-- When COLOR the background side shows its entry of the background half (R282). -/
theorem bgOut_color (hm : s.cfg.hwMode = .color) : s.bgOut = s.storeAt false s.pix.bgPal s.pix.bgIdx := by
  rw [State.bgOut, hm]
  rfl

/-- When MONO the background side shows palette 0 where the background is on, and the fixed grey where it is off (R282,
D18). -/
theorem bgOut_mono (hm : s.cfg.hwMode = .mono) :
    s.bgOut = if s.pix.bgOn then s.storeAt false 0 s.pix.bgIdx else monoRamp s.cfg .bg 0 := by
  rw [State.bgOut, hm]
  rfl

/-- Settles O40: one equation for each source of the pixel looked up. -/
theorem palLookupReadsTheStore : Obligations.PalLookupReadsTheStore := fun _ =>
  ⟨_, rfl, lookupOut_obj,
    fun hsel hm => (lookupOut_bg hsel).trans (bgOut_color hm),
    fun hsel hm hon => (lookupOut_bg hsel).trans ((bgOut_mono hm).trans (if_pos hon)),
    fun hsel hm hoff => (lookupOut_bg hsel).trans ((bgOut_mono hm).trans (if_neg (Bool.eq_false_iff.1 hoff)))⟩

/-! ### The write (R285) -/

theorem writePixel_outside {ly x : Nat} (p : Pixel) (h : ¬ (ly < lines ∧ x < width)) :
    s.writePixel ly x p = .error (.outOfSpace .fb (fbIndex ly x)) := if_neg h

/-- Settles O41: the write inserts one pixel, and outside the buffer it faults. -/
theorem pixWriteWritesOnePixel : Obligations.PixWriteWritesOnePixel := by
  refine fun s => ⟨fun hl hx => ?inside, fun hout => ?outside⟩
  case inside =>
    exact ⟨_, congrArg ofExcept (writePixel_ok s.pix.out hl hx), rfl, fun a => lookupCell_insertCell ..⟩
  case outside => exact congrArg ofExcept (writePixel_outside s.pix.out hout)

/-! ### PIXEL (R286) -/

/-- PIXEL is the write of the column's pixel, with the cursor rolled on to this column and the position moved to the
next. -/
theorem execPixel_eq {o : BgPixel} {c : Cursor} (hl : s.ly < lines) (hx : s.x < width) (ho : s.fetchValue = .ok o)
    (hc : s.rollCursor = .ok c) : execPixel s = .next { s with
      fb := insertCell (fbIndex s.ly s.x) (columnPixel s o (pickCandidate s.x s.cands)) s.fb, cursor := c,
      pix := .clear, x := s.x + 1, phase := if s.x + 1 = width then .lineEnd else .pixel } := by
  obtain ⟨p, hcompose, -⟩ := composePixel_ok hl hx ho
  rw [execPixel, hc, ok_bind, hcompose]
  rfl

/-- Settles O42: with bound views the fetch is the spec's and the cursor rolls, so the column's pixel is written. -/
theorem pixelComposesOneColumn : Obligations.PixelComposesOneColumn := by
  intro s v hv hl hx
  obtain ⟨c, hc⟩ := rollCursor_ok hv
  exact ⟨_, execPixel_eq hl hx (fetchValue_eq_fetchAt hv hl hx) hc, hc, rfl, fun a => lookupCell_insertCell ..⟩

end Sys2Proof.Machine
end

section
/-! O54: the part of a frame already drawn has values (R285, R309, R316, R318). A step adds to the part drawn only what it
writes, and no write takes a value away. -/

namespace Sys2Proof.Machine

variable {s t : State}

/-! ### Pixels that have a value -/

/-- A write gives its own pixel a value and takes none away. -/
theorem isSome_lookupCell_insertCell {α : Type} (a b : Nat) (v : α) (m : List (Nat × α)) :
    (lookupCell a (insertCell b v m)).isSome ↔ a = b ∨ (lookupCell a m).isSome := by
  rw [lookupCell_insertCell]
  by_cases h : a = b <;> simp [h]

/-- A whole line of one pixel gives the line's pixels values and takes none away (R316). -/
theorem execLineBlank_isSome (hl : s.ly < lines) (h : execLineBlank s = .next t) (a : Nat)
    (ha : (width * s.ly ≤ a ∧ a < width * (s.ly + 1)) ∨ (lookupCell a s.fb).isSome) : (lookupCell a t.fb).isSome := by
  obtain ⟨fb, hrun, hfb, -⟩ := writeRun_ok (whitePixel s.cfg) width 0 s hl (Nat.le_of_eq (Nat.zero_add _))
  simp only [execLineBlank, hrun, ok_bind] at h
  cases h
  show (lookupCell a fb).isSome
  rw [hfb]
  split
  · rfl
  · next hout => exact ha.resolve_left hout

/-! ### The part drawn, from one phase to the next -/

/-- LINE_START goes on to drawing the line, or to blanking it (R151, R315). -/
theorem execLineStart_phase (h : execLineStart s = .next t) : t.phase = .objSearch ∨ t.phase = .lineBlank := by
  unfold execLineStart at h
  split at h
  · cases h
  · obtain ⟨a, -, h⟩ := andThen_eq_next.1 h
    obtain ⟨b, -, h⟩ := andThen_eq_next.1 h
    cases h
    rw [State.setPhase_phase]
    split
    · exact .inl rfl
    · exact .inr rfl

/-- A host request starts an operation that has drawn nothing yet (R320). -/
theorem drawn_takeRequest (q : HostRequest) : (s.takeRequest q).drawn = 0 := by
  cases q <;> rfl

/-- A mask that skips the drawing leaves nothing drawn, and every other one has it still to come (R303, R305). -/
theorem drawn_enterMask (m : Mask) : (s.enterMask m).drawn = 0 := by
  by_cases hm : m = .frozen <;> simp [State.enterMask, State.drawn, hm]

namespace Painted

/-- Where nothing is drawn there is nothing to have a value. -/
theorem of_drawn_eq_zero (h : s.drawn = 0) : Painted s := fun a ha => absurd (h ▸ ha) (Nat.not_lt_zero a)

/-- A step that leaves the buffer alone and draws nothing more keeps it. -/
theorem congr (h : Painted s) (hfb : t.fb = s.fb) (hdrawn : t.drawn ≤ s.drawn) : Painted t :=
  fun a ha => hfb ▸ h a (Nat.lt_of_lt_of_le ha hdrawn)

/-- FILL, from any state, gives the whole buffer values (R309). -/
theorem fill (h : execFill s = .next t) : Painted t := by
  obtain ⟨c, n, -, rfl⟩ := fill_frame h
  intro a ha
  rw [lookupCell_paint, if_pos (show a < Space.fb.size from ha)]
  rfl

theorem lineStart (hs : Painted s) (hp : s.phase = .lineStart) (h : execLineStart s = .next t) : Painted t := by
  obtain ⟨hf, -⟩ := lineStart_frame h
  have hfb : t.fb = s.fb := by rw [hf]
  have hly : t.ly = s.ly := by rw [hf]
  have hdrawn : t.drawn = s.drawn := by
    obtain hphase | hphase := execLineStart_phase h <;> simp only [State.drawn, hp, hphase, hly]
  exact hs.congr hfb hdrawn.le

theorem lineBlank (hs : Painted s) (hp : s.phase = .lineBlank) (hl : s.ly < lines) (h : execLineBlank s = .next t) :
    Painted t := by
  have hdrawn : s.drawn = width * s.ly := by simp only [State.drawn, hp]
  have hdrawn' : t.drawn = width * (s.ly + 1) := by rw [lineBlank_frame h]; rfl
  intro a ha
  refine execLineBlank_isSome hl h a ?_
  obtain hold | hnew := Nat.lt_or_ge a (width * s.ly)
  · exact .inr (hs a (hdrawn ▸ hold))
  · exact .inl ⟨hnew, hdrawn' ▸ ha⟩

/-- PIXEL draws the one pixel that it writes, at the end of a line too. -/
theorem pixel (hs : Painted s) (hp : s.phase = .pixel) (h : execPixel s = .next t) : Painted t := by
  obtain ⟨o, -, -, -, hf⟩ := pixel_frame h
  have hdrawn : s.drawn = fbIndex s.ly s.x := by simp only [State.drawn, hp, fbIndex]
  have hdrawn' : t.drawn = fbIndex s.ly s.x + 1 := by
    rw [hf]
    by_cases hend : s.x + 1 = width
    · simp only [State.drawn, if_pos hend, fbIndex, Nat.mul_succ]
      omega
    · simp only [State.drawn, if_neg hend, fbIndex, Nat.add_assoc]
  intro a ha
  rw [hf]
  refine (isSome_lookupCell_insertCell ..).2 ?_
  obtain hold | hnew := Nat.lt_or_ge a s.drawn
  · exact .inr (hs a hold)
  · exact .inl (by omega)

/-- The end of a line is where the next line begins, and after the last line the whole buffer is drawn (R317). -/
theorem lineEnd (hs : Painted s) (hp : s.phase = .lineEnd) (h : execLineEnd s = .next t) : Painted t := by
  cases h
  refine hs.congr rfl (Nat.le_of_eq ?_)
  by_cases hend : s.ly + 1 = lines <;> simp [State.drawn, hp, State.setPhase, hend]

/-- Unlocking draws nothing more: the whole buffer counts as drawn already (R310). -/
theorem bufUnlock (hs : Painted s) (hp : s.phase = .bufUnlock) (h : execBufUnlock s = .next t) : Painted t := by
  cases h
  have hdrawn : s.drawn = width * lines := by simp only [State.drawn, hp]
  refine hs.congr rfl (hdrawn ▸ ?_)
  show (if s.mask = .frozen then 0 else width * lines) ≤ width * lines
  split
  · exact Nat.zero_le _
  · exact Nat.le_refl _

theorem present (hs : Painted s) (hp : s.phase = .present) (h : execPresent s = .next t) : Painted t := by
  cases h
  have hdrawn : s.drawn = if s.mask = .frozen then 0 else width * lines := by simp only [State.drawn, hp]
  exact hs.congr rfl hdrawn.ge

/-- A step performs the operation of its phase, which writes whatever it adds to the part drawn. -/
theorem step (hs : Painted s) (hinv : s.Inv) (h : Machine.step s = .next t) : Painted t := by
  have hphase := hinv.phases
  rw [step_phase hinv.noIssue] at h
  cases hp : s.phase <;> rw [hp] at h <;> simp only [PhaseInv, hp] at hphase
  case idle =>
    obtain rfl | ⟨q, rest, -, rfl⟩ := execIdle_cases h
    · exact .of_drawn_eq_zero rfl
    · exact .of_drawn_eq_zero (drawn_takeRequest q)
  case frameBegin =>
    obtain rfl | ⟨inp, -, ⟨r, rfl⟩ | ⟨-, rfl⟩⟩ := execFrameBegin_cases h <;> exact .of_drawn_eq_zero rfl
  case maskDispatch =>
    obtain ⟨-, m, rfl⟩ := maskDispatch_frame h
    exact .of_drawn_eq_zero (drawn_enterMask m)
  case bufLock =>
    obtain ⟨stride, rfl⟩ | rfl := execBufLock_cases h
    · refine .of_drawn_eq_zero ?_
      by_cases hm : s.mask = .normal <;> simp [State.drawn, hm]
    · exact .of_drawn_eq_zero rfl
  case fill => exact .fill h
  case frameLoad =>
    obtain ⟨inp, -, rfl⟩ := execFrameLoad_next h
    exact .of_drawn_eq_zero rfl
  case palReload =>
    obtain ⟨inp, -, hly, -⟩ := hphase
    refine .of_drawn_eq_zero ?_
    rw [palReload_frame h]
    simp only [State.drawn, hly, Nat.mul_zero]
  case lineStart => exact hs.lineStart hp h
  case lineBlank =>
    obtain ⟨inp, ⟨-, -, -, hly⟩, -⟩ := hphase
    exact hs.lineBlank hp hly h
  case objSearch =>
    rw [objSearch_frame h]
    exact hs.congr rfl (by simp only [State.drawn, hp]; exact Nat.le_refl _)
  case pixel => exact hs.pixel hp h
  case lineEnd => exact hs.lineEnd hp h
  case bufUnlock => exact hs.bufUnlock hp h
  case present => exact hs.present hp h
  case frameEnd => cases h; exact .of_drawn_eq_zero rfl
  case borderRender => obtain rfl | rfl := execBorderRender_cases h <;> exact .of_drawn_eq_zero rfl

end Painted

/-- Settles O54: every step keeps it, and at PRESENT of a frame that draws the part drawn is the whole buffer. -/
theorem drawnPixelsAreWritten : Obligations.DrawnPixelsAreWritten := by
  refine ⟨fun s t hinv hs h => hs.step hinv h, fun s hp hm hs ly x hl hx => hs _ ?whole⟩
  case whole =>
    have hdrawn : s.drawn = Space.fb.size := by simp only [State.drawn, hp, if_neg hm]; rfl
    exact hdrawn ▸ fbIndex_lt hl hx

end Sys2Proof.Machine
end

section
/-! O17, O18, O19: the five mask commands (R304 to R308), MASK_DISPATCH on every selector (R303, R133), and FILL (R309). -/

namespace Sys2Proof.Machine

variable {s : State}

/-- Settles O17: each of the five commands is `enterMask` of its own state. -/
theorem maskCommandsEnterTheirState : Obligations.MaskCommandsEnterTheirState := fun _ _ _ =>
  ⟨rfl, rfl, rfl, rfl, rfl⟩

/-! ### MASK_DISPATCH (R120, R303) -/

theorem maskMode_toNat (w : BitVec 18) : (w.extractLsb' 15 3).toNat = w.toNat / 2 ^ 15 := by
  rw [BitVec.extractLsb'_toNat, Nat.shiftRight_eq_div_pow]
  omega

theorem maskOperand_eq_ofNat (w : BitVec 18) : w.extractLsb' 0 15 = BitVec.ofNat 15 (w.toNat % 2 ^ 15) := by
  apply BitVec.eq_of_toNat_eq
  rw [BitVec.extractLsb'_toNat, BitVec.toNat_ofNat, Nat.shiftRight_zero, Nat.mod_mod]

/-- The command a selector decodes to, by the number that its mode bits hold (R120). -/
theorem decodeMask_eq (w : BitVec 18) :
    let mode := w.toNat / 2 ^ 15
    let k := BitVec.ofNat 15 (w.toNat % 2 ^ 15)
    decodeMask w = if mode = 0 then .maskNormal k else if mode = 1 then .maskFrozen k
      else if mode = 2 then .maskBlack k else if mode = 3 then .maskColor k
      else .maskWhite (w.extractLsb' 15 3) k := by
  simp only [decodeMask, ← BitVec.toNat_inj, maskMode_toNat, maskOperand_eq_ofNat]
  rfl

theorem execMaskDispatch_eq {inp : FrameInput} (hinp : s.input = some inp) :
    execMaskDispatch s = performMask (decodeMask inp.maskSel) s := by
  rw [execMaskDispatch, hinp]

/-- Settles O18: the mode decides the command, and the command is `enterMask` of its state. -/
theorem maskDispatchDecodesSelector : Obligations.MaskDispatchDecodesSelector := by
  intro s inp hinp
  refine (execMaskDispatch_eq hinp).trans ?_
  rw [decodeMask_eq]
  generalize inp.maskSel.toNat / 2 ^ 15 = mode
  match mode with
  | 0 | 1 | 2 | 3 => rfl
  | n + 4 => rfl

/-! ### FILL (R306 to R309) -/

theorem execFill_eq {p : Pixel} (h : fillPixel s.cfg s.mask = some p) :
    execFill s = .next ((s.fillBuffer p).setPhase .bufUnlock) := by
  rw [execFill, h]

/-- Where the mask state gives FILL no colour it takes a free one (log 18). -/
theorem execFill_free (h : fillPixel s.cfg s.mask = none) : ∃ p, execFill s =
    .next ((State.fillBuffer { s with free := s.free + 1 } p).setPhase .bufUnlock) := by
  rw [execFill, h]
  exact ⟨_, rfl⟩

theorem fillPixel_eq_none_iff (c : Config) (m : Mask) : fillPixel c m = none ↔ m = .normal ∨ m = .frozen := by
  cases m <;> simp [fillPixel]

/-- Settles O19: FILL paints the buffer with the colour of the mask state, a free one under Normal and Frozen. -/
theorem fillPaintsEveryPixel : Obligations.FillPaintsEveryPixel := by
  intro s
  cases hfill : fillPixel s.cfg s.mask with
  | some p =>
    refine ⟨_, p, execFill_eq hfill, rfl, fun a => lookupCell_paint .., fun hm => ?_, fun k hm => ?_, fun hm => ?_,
      fun _ _ => rfl⟩
    all_goals
      rw [hm] at hfill
      exact (Option.some.inj hfill).symm
  | none =>
    have hmask := (fillPixel_eq_none_iff ..).1 hfill
    obtain ⟨p, hp⟩ := execFill_free hfill
    refine ⟨_, p, hp, rfl, fun a => lookupCell_paint .., fun hm => ?_, fun k hm => ?_, fun hm => ?_,
      fun hnormal hfrozen => (hmask.elim hnormal hfrozen).elim⟩
    all_goals
      rw [hm] at hfill
      cases hfill

end Sys2Proof.Machine
end

section
/-! O20, O21, O23, O24, O25, O27, O28: one exact next state for each way an operation of the sequencer ends (R300, R301,
R310 to R317, R353, R354, R358). -/

namespace Sys2Proof.Machine

open Sys2Proof.Claims

variable {s : State} {inp : FrameInput} {good : BitVec 64 → Bool} {log : List (BitVec 64)}

/-! ### IDLE (R300, R320) -/

theorem execIdle_waits (h : s.requests = []) : execIdle s = .next (s.setPhase .idle) := by
  rw [execIdle, h]

theorem execIdle_takes {q : HostRequest} {rest : List HostRequest} (h : s.requests = q :: rest) :
    execIdle s = .next (State.takeRequest { s with requests := rest } q) := by
  rw [execIdle, h]

/-- Settles O20: IDLE takes up the head of the queue, and each request says what it sets. -/
theorem idleTakesUpHostRequests : Obligations.IdleTakesUpHostRequests := fun _ =>
  ⟨execIdle_waits, fun _ _ => execIdle_takes, fun _ _ => execIdle_takes, fun _ => execIdle_takes,
    fun _ _ => execIdle_takes⟩

/-! ### FRAME_BEGIN (R301, R353) -/

/-- The record at which the first `k` records cease to be without an offence is the first offence of the log. -/
theorem firstOffence_eq_some {n low k : Nat} (hk : k < log.length) (hok : firstOffence good n low (log.take k) = none)
    (hbad : firstOffence good n low (log.take (k + 1)) ≠ none) : firstOffence good n low log = some (n + k) := by
  induction log generalizing n low k with
  | nil => cases hk
  | cons w log ih =>
    cases k with
    | zero =>
      simp only [List.take_succ_cons, List.take_zero, firstOffence] at hbad ⊢
      split at hbad
      · exact absurd rfl hbad
      · next hw => rw [if_neg hw]; rfl
    | succ k =>
      simp only [List.take_succ_cons, firstOffence] at hok hbad ⊢
      split at hok
      · next hw =>
        rw [if_pos hw] at hbad ⊢
        rw [ih (Nat.lt_of_succ_lt_succ hk) hok hbad, Nat.add_right_comm, Nat.add_assoc]
      · cases hok

/-- The first offence as the spec tells it is the one FRAME_BEGIN finds (R353). -/
theorem firstOffence_of_firstBad {n : Nat} (h : firstBad good log n) : firstOffence good 0 0 log = some n := by
  obtain ⟨hok, hn, hbad⟩ := h
  rw [firstOffence_eq_some hn, Nat.zero_add]
  · exact firstOffence_eq_none.2 ⟨hok, fun _ _ => Nat.zero_le _⟩
  · exact fun hnone => hbad (firstOffence_eq_none.1 hnone).1

theorem firstOffence_of_logOk (h : LogOk good log) : firstOffence good 0 0 log = none :=
  firstOffence_eq_none.2 ⟨h, fun _ _ => Nat.zero_le _⟩

theorem execFrameBegin_detached (h : s.attached = false) :
    execFrameBegin s = .next (State.setPhase { s with inProgress := false } .idle) := by
  simp only [execFrameBegin, h, Bool.false_eq_true, if_false]

theorem execFrameBegin_begins (hatt : s.attached = true) (hinp : s.input = some inp) (hlogs : LogsOk s.cfg.hwMode inp) :
    execFrameBegin s = .next (State.setPhase { s.emit .beforeFrame with inProgress := true } .maskDispatch) := by
  simp only [execFrameBegin, hatt, if_true, hinp, logOffence_eq_none.2 hlogs]

theorem execFrameBegin_refuses {r : Report} (hatt : s.attached = true) (hinp : s.input = some inp)
    (hr : logOffence s.cfg.hwMode inp = some r) : execFrameBegin s = .next (s.takeFault r) := by
  simp only [execFrameBegin, hatt, if_true, hinp, hr]

/-- Settles O21: the logs FRAME_BEGIN admits are the well-formed ones, and the report it makes names the first offence. -/
theorem frameBeginChecksAndStarts : Obligations.FrameBeginChecksAndStarts := by
  refine fun s => ⟨execFrameBegin_detached, fun inp hatt hinp =>
    ⟨execFrameBegin_begins hatt hinp, fun hlock n hbad => ?rlog, fun hlock hrlog n hbad => ?plog⟩⟩
  case rlog =>
    have hreport : logOffence s.cfg.hwMode inp = some (.malformedInput .rlog n) := by
      rw [logOffence, firstOffence_of_firstBad hbad]
    exact (execFrameBegin_refuses hatt hinp hreport).trans (congrArg _ (takeFault_unlocked hlock _))
  case plog =>
    have hreport : logOffence s.cfg.hwMode inp = some (.malformedInput .plog n) := by
      simp only [logOffence, firstOffence_of_logOk hrlog, firstOffence_of_firstBad hbad]
    exact (execFrameBegin_refuses hatt hinp hreport).trans (congrArg _ (takeFault_unlocked hlock _))

/-! ### The buffer and the presentation (R310 to R312) -/

theorem execBufLock_locks {stride : Nat} (hinp : s.input = some inp) (hlock : inp.lock = some stride) :
    execBufLock s = .next (State.setPhase { s.emit .lockBuffer with locked := some stride }
      (if s.mask = .normal then .frameLoad else .fill)) := by
  simp only [execBufLock, hinp, hlock]

theorem execBufLock_fails (hinp : s.input = some inp) (hlock : inp.lock = none) :
    execBufLock s = .next ((s.emit .lockBuffer).takeFault .bufferUnavailable) := by
  simp only [execBufLock, hinp, hlock]

/-- Settles O23: the lock's answer decides, and a failed lock has nothing to unlock. -/
theorem bufLockSucceedsOrFaults : Obligations.BufLockSucceedsOrFaults := fun s _ hinp =>
  ⟨fun _ => execBufLock_locks hinp, fun hlock hfree => (execBufLock_fails hinp hlock).trans
    (congrArg _ (takeFault_unlocked (s := s.emit .lockBuffer) hfree _))⟩

/-- Settles O24: the three operations are updates of the state without a condition. -/
theorem unlockPresentAndEnd : Obligations.UnlockPresentAndEnd := fun _ => ⟨rfl, rfl, rfl⟩

/-! ### The frame load and the line loop (R314, R316, R317) -/

/-- Settles O25: with an input FRAME_LOAD is one update of the state. -/
theorem frameLoadCopiesSnapshot : Obligations.FrameLoadCopiesSnapshot := by
  intro s inp hinp
  rw [exec, execFrameLoad, hinp]
  rfl

/-- Settles O27: LINE_BLANK is one run of white pixels from column 0 to the end of the line. -/
theorem lineBlankWhitensTheLine : Obligations.LineBlankWhitensTheLine := by
  intro s hly
  obtain ⟨fb, hrun, hfb, -⟩ := writeRun_ok (whitePixel s.cfg) width 0 s hly (Nat.le_of_eq (Nat.zero_add _))
  refine ⟨State.setPhase { s with fb := fb } .lineEnd, ?_, rfl, hfb⟩
  rw [exec, execLineBlank, hrun, ok_bind]
  rfl

/-- Settles O28: LINE_END is one update of the state without a condition. -/
theorem lineEndAdvancesTheLine : Obligations.LineEndAdvancesTheLine := fun _ => rfl

end Sys2Proof.Machine
end

section
/-! O48: one row of the transfer table for each phase (R319). -/

namespace Sys2Proof.Machine

variable {s t : State} {inp : FrameInput}

/-- The condition of FRAME_BEGIN's row, in what the operation itself looks at (R301). -/
theorem mayBegin_iff (hinp : s.input = some inp) :
    s.mayBegin ↔ s.attached = true ∧ logOffence s.cfg.hwMode inp = none := by
  simp only [State.mayBegin, hinp, Option.some.injEq, exists_eq_left', logOffence_eq_none]

/-- FRAME_BEGIN begins the frame exactly where a target is attached and the logs are well formed (R301). -/
theorem execFrameBegin_phase (hinp : s.input = some inp) (h : execFrameBegin s = .next t) :
    (s.mayBegin → t.phase = .maskDispatch) ∧ (¬ s.mayBegin → t.phase = .idle) := by
  rw [mayBegin_iff hinp]
  cases hatt : s.attached with
  | false =>
    cases h.symm.trans (execFrameBegin_detached hatt)
    exact ⟨fun hmay => (nomatch hmay.1), fun _ => rfl⟩
  | true =>
    cases hlogs : logOffence s.cfg.hwMode inp with
    | none =>
      cases h.symm.trans (execFrameBegin_begins hatt hinp (logOffence_eq_none.1 hlogs))
      exact ⟨fun _ => rfl, fun hmay => absurd ⟨rfl, rfl⟩ hmay⟩
    | some r =>
      cases h.symm.trans (execFrameBegin_refuses hatt hinp hlogs)
      exact ⟨fun hmay => (nomatch hmay.2), fun _ => rfl⟩

theorem mayLock_eq (hinp : s.input = some inp) : s.mayLock = inp.lock.isSome := by
  rw [State.mayLock, hinp]
  rfl

/-- BUF_LOCK goes on to draw exactly where the lock's answer is a buffer (R310). -/
theorem execBufLock_phase (hinp : s.input = some inp) (h : execBufLock s = .next t) :
    t.phase = if s.mayLock then if t.mask = .normal then .frameLoad else .fill else .idle := by
  rw [mayLock_eq hinp]
  cases hlock : inp.lock with
  | none => cases h.symm.trans (execBufLock_fails hinp hlock); rfl
  | some stride => cases h.symm.trans (execBufLock_locks hinp hlock); rfl

/-- LINE_START goes on as the display bit says that the replayed events leave (R151, R315). -/
theorem execLineStart_phase_eq (h : execLineStart s = .next t) :
    t.phase = if t.regs.lcdc.getLsbD 7 then .objSearch else .lineBlank := by
  unfold execLineStart at h
  split at h
  · cases h
  · obtain ⟨a, -, ha⟩ := andThen_eq_next.1 h
    obtain ⟨b, -, hb⟩ := andThen_eq_next.1 ha
    cases hb
    rfl

/-- Settles O48: a state of the invariant holds no issued command, so a step performs the operation of its phase. -/
theorem stepsFollowTransferTable : Obligations.StepsFollowTransferTable := by
  intro s t hs h
  have hphase := hs.phases
  rw [step_phase hs.noIssue] at h
  cases hp : s.phase <;> rw [hp] at h <;> simp only [PhaseInv, hp] at hphase <;> simp only [Transfer, hp]
  case idle =>
    cases hq : s.requests with
    | nil => cases h.symm.trans (execIdle_waits hq); rfl
    | cons q rest =>
      cases h.symm.trans (execIdle_takes hq)
      cases q <;> rfl
  case frameBegin =>
    obtain ⟨-, hin, -⟩ := hphase
    obtain ⟨inp, hinp⟩ := Option.isSome_iff_exists.1 hin
    exact execFrameBegin_phase hinp h
  case maskDispatch => obtain ⟨-, m, rfl⟩ := maskDispatch_frame h; rfl
  case bufLock =>
    obtain ⟨inp, ⟨-, hinp, -⟩, -⟩ := hphase
    exact execBufLock_phase hinp h
  case fill => obtain ⟨c, n, -, rfl⟩ := fill_frame h; rfl
  case frameLoad => obtain ⟨inp, -, rfl⟩ := execFrameLoad_next h; rfl
  case palReload =>
    obtain ⟨inp, -, hly, -⟩ := hphase
    rw [palReload_frame h]
    exact ⟨rfl, hly⟩
  case lineStart => exact execLineStart_phase_eq h
  case lineBlank => rw [lineBlank_frame h]
  case objSearch => rw [objSearch_frame h]; exact ⟨rfl, rfl⟩
  case pixel => obtain ⟨o, -, -, -, hf⟩ := pixel_frame h; rw [hf]; rfl
  case lineEnd | bufUnlock | present | frameEnd => cases h; rfl
  case borderRender => obtain rfl | rfl := execBorderRender_cases h <;> rfl

end Sys2Proof.Machine
end

section
/-! O47: every operation ends. From a state of the invariant a step goes on, and outside IDLE it lowers the rank (R300,
R319, R318). -/

namespace Sys2Proof.Machine

variable {s t : State}

/-! ### A step always goes on (R350, R151, R86) -/

theorem execIdle_goesOn (s : State) : ∃ t, execIdle s = .next t := by
  cases hq : s.requests with
  | nil => exact ⟨_, execIdle_waits hq⟩
  | cons q rest => exact ⟨_, execIdle_takes hq⟩

theorem execFrameBegin_goesOn {inp : FrameInput} (hinp : s.input = some inp) : ∃ t, execFrameBegin s = .next t := by
  cases hatt : s.attached with
  | false => exact ⟨_, execFrameBegin_detached hatt⟩
  | true =>
    cases hlogs : logOffence s.cfg.hwMode inp with
    | none => exact ⟨_, execFrameBegin_begins hatt hinp (logOffence_eq_none.1 hlogs)⟩
    | some r => exact ⟨_, execFrameBegin_refuses hatt hinp hlogs⟩

theorem execBufLock_goesOn {inp : FrameInput} (hinp : s.input = some inp) : ∃ t, execBufLock s = .next t := by
  cases hlock : inp.lock with
  | none => exact ⟨_, execBufLock_fails hinp hlock⟩
  | some stride => exact ⟨_, execBufLock_locks hinp hlock⟩

theorem execPalReload_goesOn {v : Views} (hv : s.views = some v) : ∃ t, execPalReload s = .next t := by
  cases hm : s.cfg.hwMode with
  | mono =>
    obtain ⟨t, ht, -⟩ := palReloadRebuildsMonoStore s hm
    exact ⟨t, ht⟩
  | color =>
    obtain ⟨t, ht, -⟩ := palReloadRebuildsColorStore s v hm hv
    exact ⟨t, ht⟩

theorem execBorderRender_goesOn (s : State) : ∃ t, execBorderRender s = .next t := by
  unfold execBorderRender
  split <;> exact ⟨_, rfl⟩

/-- From every state of the invariant a step answers a next state: the invariant of each phase supplies the input, the
views and the position that its operation needs. -/
theorem exists_step_of_inv (hs : s.Inv) : ∃ t, step s = .next t := by
  have hphase := hs.phases
  rw [step_phase hs.noIssue]
  cases hp : s.phase <;> simp only [PhaseInv, hp] at hphase
  case idle => exact execIdle_goesOn s
  case frameBegin =>
    obtain ⟨-, hin, -⟩ := hphase
    obtain ⟨inp, hinp⟩ := Option.isSome_iff_exists.1 hin
    exact execFrameBegin_goesOn hinp
  case maskDispatch =>
    obtain ⟨inp, ⟨-, hinp, -⟩, -⟩ := hphase
    exact ⟨_, maskDispatchDecodesSelector s inp hinp⟩
  case bufLock =>
    obtain ⟨inp, ⟨-, hinp, -⟩, -⟩ := hphase
    exact execBufLock_goesOn hinp
  case fill =>
    obtain ⟨t, c, ht, -⟩ := fillPaintsEveryPixel s
    exact ⟨t, ht⟩
  case frameLoad =>
    obtain ⟨inp, ⟨⟨-, hinp, -⟩, -⟩, -⟩ := hphase
    exact ⟨_, frameLoadCopiesSnapshot s inp hinp⟩
  case palReload =>
    obtain ⟨inp, ⟨-, -, ⟨-, hviews⟩, -⟩, -⟩ := hphase
    exact execPalReload_goesOn hviews
  case lineStart =>
    obtain ⟨inp, ⟨⟨⟨-, hinp, hlogs⟩, -⟩, -, ⟨-, hviews⟩, -⟩, -, hconsumed⟩ := hphase
    obtain ⟨t, w, ht, -⟩ := lineStartAppliesExactlyDueEvents s inp _ hinp hviews hlogs hconsumed
    exact ⟨t, ht⟩
  case lineBlank =>
    obtain ⟨inp, ⟨-, -, -, hly⟩, -⟩ := hphase
    obtain ⟨t, ht, -⟩ := lineBlankWhitensTheLine s hly
    exact ⟨t, ht⟩
  case objSearch =>
    obtain ⟨inp, ⟨-, -, ⟨-, hviews⟩, -⟩, -⟩ := hphase
    exact ⟨_, execObjSearch_eq (searchLine_ok hviews)⟩
  case pixel =>
    obtain ⟨inp, ⟨-, -, ⟨-, hviews⟩, hly⟩, hx, -⟩ := hphase
    obtain ⟨t, ht, -⟩ := pixelComposesOneColumn s _ hviews hly hx
    exact ⟨t, ht⟩
  case lineEnd | bufUnlock | present | frameEnd => exact ⟨_, rfl⟩
  case borderRender => exact execBorderRender_goesOn s

/-! ### The rank falls (R319) -/

/-- No phase ranks above FRAME_BEGIN. -/
theorem rank_le (s : State) : s.rank ≤ 28815 := by
  cases hp : s.phase <;> simp only [State.rank, hp, lines] <;> omega

/-- Every row of the transfer table leads to a phase of a lower rank, and the line loop comes nearer to the end of the line
or of the screen. -/
theorem rank_lt_of_step (hs : s.Inv) (hbusy : s.phase ≠ .idle) (h : step s = .next t) : t.rank < s.rank := by
  have hrow := stepsFollowTransferTable s t hs h
  have hphase := hs.phases
  rw [step_phase hs.noIssue] at h
  cases hp : s.phase <;> rw [hp] at h <;> simp only [PhaseInv, hp] at hphase <;> simp only [Transfer, hp] at hrow
  case idle => exact absurd hp hbusy
  case frameBegin =>
    by_cases hmay : s.mayBegin
    · simp only [State.rank, hp, hrow.1 hmay]; omega
    · simp only [State.rank, hp, hrow.2 hmay]; omega
  case maskDispatch => split at hrow <;> simp only [State.rank, hp, hrow] <;> omega
  case bufLock =>
    split at hrow
    · split at hrow <;> simp only [State.rank, hp, hrow] <;> omega
    · simp only [State.rank, hp, hrow]; omega
  case frameLoad | fill | bufUnlock | present | frameEnd | borderRender => simp only [State.rank, hp, hrow]; omega
  case palReload =>
    obtain ⟨hnext, hly⟩ := hrow
    simp only [State.rank, hp, hnext, hly]
    omega
  case lineStart =>
    have hly : t.ly = s.ly := by rw [(lineStart_frame h).1]
    split at hrow <;> simp only [State.rank, hp, hrow, hly] <;> omega
  case lineBlank =>
    have hly : t.ly = s.ly := by rw [lineBlank_frame h]
    simp only [State.rank, hp, hrow, hly]
    omega
  case objSearch =>
    obtain ⟨hnext, hx⟩ := hrow
    have hly : t.ly = s.ly := by rw [objSearch_frame h]
    simp only [State.rank, hp, hnext, hly, hx]
    omega
  case pixel =>
    obtain ⟨inp, ⟨-, -, -, hlt⟩, hcolumn, -⟩ := hphase
    obtain ⟨o, -, -, -, hf⟩ := pixel_frame h
    have hly : t.ly = s.ly := by rw [hf]
    have hx : t.x = s.x + 1 := by rw [hf]
    simp only [width] at hcolumn
    split at hrow <;> simp only [State.rank, hp, hrow, hly, hx] <;> omega
  case lineEnd =>
    obtain ⟨inp, ⟨-, -, -, hlt⟩, -⟩ := hphase
    have hly : t.ly = s.ly + 1 := by cases h; rfl
    split at hrow <;> simp only [State.rank, hp, hrow, hly] <;> omega

/-- From a state of the invariant the run comes to IDLE within the rank. -/
theorem run_reaches_idle (hs : s.Inv) :
    ∃ n t, n ≤ s.rank ∧ Sys2Proof.core.run n s = .next t ∧ t.phase = .idle := by
  induction hr : s.rank using Nat.strongRecOn generalizing s with
  | ind r ih =>
    by_cases hidle : s.phase = .idle
    · exact ⟨0, s, Nat.zero_le _, rfl, hidle⟩
    · obtain ⟨t, ht⟩ := exists_step_of_inv hs
      have hlt : t.rank < r := hr ▸ rank_lt_of_step hs hidle ht
      obtain ⟨n, u, hn, hrun, hu⟩ := ih t.rank hlt (everyStepKeepsInvariant s t hs ht) rfl
      exact ⟨n + 1, u, Nat.lt_of_le_of_lt hn hlt, (run_succ ht n).trans hrun, hu⟩

/-- Settles O47: by induction on the rank. -/
theorem everyOperationEndsInIdle : Obligations.EveryOperationEndsInIdle := fun _ hs =>
  ⟨rank_le _, run_reaches_idle hs⟩

end Sys2Proof.Machine
end

section
/-! O52, O53: the operations that write the output buffer are performed only while it is locked (R310), and a Frozen frame
performs none of them (R305). -/

namespace Sys2Proof.Machine

variable {s t : State}

@[simp] theorem State.takeFault_fb (s : State) (r : Report) : (s.takeFault r).fb = s.fb := by
  unfold State.takeFault State.releaseBuffer
  split <;> rfl

@[simp] theorem State.takeRequest_fb (s : State) (q : HostRequest) : (s.takeRequest q).fb = s.fb := by
  cases q <;> rfl

/-- The phases whose operation writes the output buffer (R309, R316, R285). -/
def drawsBuffer : Phase → Bool
  | .fill | .lineBlank | .pixel => true
  | _ => false

/-- At every other phase the operation leaves the buffer alone, from any state. -/
theorem exec_phase_fb {p : Phase} (hp : drawsBuffer p = false) (h : exec (Phase.instr p) s = .next t) : t.fb = s.fb := by
  cases p
  case fill | lineBlank | pixel => cases hp
  case idle => obtain rfl | ⟨q, rest, -, rfl⟩ := execIdle_cases h <;> simp
  case frameBegin => obtain rfl | ⟨inp, -, ⟨r, rfl⟩ | ⟨-, rfl⟩⟩ := execFrameBegin_cases h <;> simp
  case maskDispatch => obtain ⟨-, m, rfl⟩ := maskDispatch_frame h; rfl
  case bufLock => obtain ⟨stride, rfl⟩ | rfl := execBufLock_cases h <;> simp
  case frameLoad => obtain ⟨inp, -, rfl⟩ := execFrameLoad_next h; rfl
  case palReload => rw [palReload_frame h]
  case lineStart => rw [(lineStart_frame h).1]
  case objSearch => rw [objSearch_frame h]
  case lineEnd | bufUnlock | present | frameEnd => cases h; rfl
  case borderRender => obtain rfl | rfl := execBorderRender_cases h <;> rfl

/-- The invariant has the buffer locked wherever it is written (R310). -/
theorem State.Inv.locked_of_drawsBuffer (hs : s.Inv) (hd : drawsBuffer s.phase = true) : s.locked.isSome := by
  have hphase := hs.phases
  cases hp : s.phase <;> rw [hp] at hd <;> simp only [PhaseInv, hp] at hphase
  case fill => obtain ⟨inp, ⟨-, hlock, -⟩, -⟩ := hphase; exact hlock
  case lineBlank | pixel => obtain ⟨inp, ⟨⟨-, hlock, -⟩, -⟩, -⟩ := hphase; exact hlock
  all_goals cases hd

/-- Settles O52: a step that changes the buffer is taken at a phase that draws. -/
theorem bufferChangesOnlyWhileLocked : Obligations.BufferChangesOnlyWhileLocked := by
  intro s t hs h hchanged
  rw [step_phase hs.noIssue] at h
  apply hs.locked_of_drawsBuffer
  by_contra hd
  exact hchanged (exec_phase_fb (Bool.eq_false_iff.2 hd) h)

/-! ### A Frozen frame (R305, R311, R312) -/

/-- Settles O53: the three steps are MASK_DISPATCH into Frozen, PRESENT and FRAME_END. -/
theorem frozenFrameDrawsNothing : Obligations.FrozenFrameDrawsNothing := by
  intro s inp hissue hp hinp hmode
  have hdispatch : step s = .next (s.enterMask .frozen) := by
    rw [step_phase hissue, hp]
    refine (maskDispatchDecodesSelector s inp hinp).trans ?_
    rw [hmode]
    rfl
  have hpresent := step_phase (s := s.enterMask .frozen) hissue
  have hend := step_phase (s := ((s.enterMask .frozen).emit .render).setPhase .frameEnd) hissue
  refine ⟨⟨_, (run_succ hdispatch 1).trans (run_succ hpresent 0), rfl, rfl, rfl, rfl, rfl, rfl⟩,
    ⟨_, (run_succ hdispatch 2).trans ((run_succ hpresent 1).trans (run_succ hend 0)), rfl, rfl, rfl, rfl, rfl, ?_⟩⟩
  exact List.append_assoc ..

end Sys2Proof.Machine
end

section
/-! O43, O44: the border buffer is painted whole from its own operands or not at all, and by BORDER_RENDER alone (R341 to
R344). -/

namespace Sys2Proof.Machine
open Sys2Proof.Claims

variable {s t : State}

/-! ### Only BORDER_RENDER writes the border (R344) -/

@[simp] theorem State.takeFault_border (s : State) (r : Report) : (s.takeFault r).border = s.border := by
  unfold State.takeFault State.releaseBuffer
  split <;> rfl

@[simp] theorem State.takeRequest_border (s : State) (q : HostRequest) : (s.takeRequest q).border = s.border := by
  cases q <;> rfl

/-- Every other command leaves the border buffer alone, from any state. -/
theorem exec_border {i : Instr} (hi : i ≠ .borderRender) (h : exec i s = .next t) : t.border = s.border := by
  cases i
  case borderRender => exact absurd rfl hi
  case evLcdc | evScx | evScy | evWx => cases h; rfl
  case evBgp | evObp0 | evObp1 => cases h; rw [monoLatched_frame]; rfl
  case evPalbyte c off d => rw [(evPalbyte_frame (c := c) h).1]
  case maskNormal | maskFrozen | maskBlack | maskColor | maskWhite => cases h; rfl
  case maskDispatch => obtain ⟨-, m, rfl⟩ := maskDispatch_frame h; rfl
  case idle => obtain rfl | ⟨q, rest, -, rfl⟩ := execIdle_cases h <;> simp
  case frameBegin => obtain rfl | ⟨inp, -, ⟨r, rfl⟩ | ⟨-, rfl⟩⟩ := execFrameBegin_cases h <;> simp
  case bufLock => obtain ⟨stride, rfl⟩ | rfl := execBufLock_cases h <;> simp
  case fill => obtain ⟨c, n, -, rfl⟩ := fill_frame h; rfl
  case frameLoad => obtain ⟨inp, -, rfl⟩ := execFrameLoad_next h; rfl
  case palReload => rw [palReload_frame h]
  case lineStart => rw [(lineStart_frame h).1]
  case lineBlank => rw [lineBlank_frame h]
  case objSearch => rw [objSearch_frame h]
  case pixel => obtain ⟨_, -, -, -, hf⟩ := pixel_frame h; rw [hf]
  case bgFetch => rw [bgFetch_frame h]
  case winFetch => rw [winFetch_frame h]
  case objPick => cases h; simp
  case prioMux | palLookup | lineEnd | bufUnlock | present | frameEnd => cases h; rfl
  case pixWrite => obtain ⟨-, -, rfl⟩ := pixWrite_frame h; rfl
  case setColorPalette => cases h; exact State.setStore_border ..
  case setMonoPalette => cases h; rw [storeMono_frame]

/-! ### What BORDER_RENDER does (R343, R351) -/

theorem execBorderRender_paints (hlock : s.borderIn.lock.isSome) : execBorderRender s = .next { s with
    border := s.paintBorder.border, signals := s.signals ++ [.lockBorder, .unlockBorder], phase := .idle } := by
  obtain ⟨stride, hstride⟩ := Option.isSome_iff_exists.1 hlock
  have hsignals : s.signals ++ [.lockBorder, .unlockBorder] = (s.signals ++ [.lockBorder]) ++ [.unlockBorder] :=
    List.append_cons ..
  rw [execBorderRender, hstride, hsignals]
  rfl

theorem execBorderRender_denied (hlock : s.borderIn.lock = none) : execBorderRender s = .next { s with
    signals := s.signals ++ [.lockBorder], phase := .idle } := by
  rw [execBorderRender, hlock]
  rfl

/-- The border after BORDER_RENDER, in the configuration, the border operands and the border before. -/
theorem execBorderRender_border (h : execBorderRender s = .next t) :
    t.border = if s.borderIn.lock.isSome then s.paintBorder.border else s.border := by
  cases hlock : s.borderIn.lock with
  | some stride => cases (execBorderRender_paints (by rw [hlock]; rfl)).symm.trans h; rfl
  | none => cases (execBorderRender_denied hlock).symm.trans h; rfl

theorem paintBorder_border_congr (hcfg : s.cfg = t.cfg) (hin : s.borderIn = t.borderIn) :
    s.paintBorder.border = t.paintBorder.border := by
  simp only [State.paintBorder, hcfg, hin]

/-- Settles O44: the border painted is a function of configuration and operands, and no other command writes it. -/
theorem borderIsIndependentOfTheCore : Obligations.BorderIsIndependentOfTheCore := by
  refine ⟨fun s t s' hcfg hin hborder h => ?_, fun i s t => exec_border⟩
  obtain ⟨t', ht'⟩ := execBorderRender_goesOn t
  refine ⟨t', ht', ?_⟩
  rw [execBorderRender_border h, execBorderRender_border ht', paintBorder_border_congr hcfg hin, hin, hborder]

/-! ### The pixels painted (R341, R342) -/

/-- Four bits side by side are the sum of their weights. -/
theorem ofBool_append_eq_weights (b0 b1 b2 b3 : Bool) :
    BitVec.ofBool b3 ++ BitVec.ofBool b2 ++ BitVec.ofBool b1 ++ BitVec.ofBool b0 =
      BitVec.ofNat 4 ((if b0 then 2 ^ 0 else 0) + (if b1 then 2 ^ 1 else 0) + (if b2 then 2 ^ 2 else 0)
        + (if b3 then 2 ^ 3 else 0)) := by
  revert b0 b1 b2 b3; decide

/-- The bit of a plane that shows column `k` of a tile, bit 7 leftmost, with and without the flip. -/
theorem planeBit_flip (xflip : Bool) {k : Nat} (hk : k < 8) :
    7 - (if xflip then 7 - k else k) = if xflip then k else 7 - k := by
  cases xflip
  · rfl
  · exact Nat.sub_sub_self (Nat.le_of_lt_succ hk)

/-- The machine's border pixel is the spec's. -/
theorem borderPixel_eq_borderAt (s : State) (y x : Nat) : borderPixel s.cfg s.borderIn y x = borderAt s y x := by
  simp only [borderPixel, borderAt, borderIndex, toPixel_eq_inWidth, ofBool_append_eq_weights,
    planeBit_flip _ (Nat.mod_lt x (by decide : 8 > 0))]

theorem lookupCell_paintBorder (s : State) (a : Nat) : lookupCell a s.paintBorder.border =
    if a < 224 * 256 then some (borderAt s (a / 256) (a % 256)) else none := by
  rw [← borderPixel_eq_borderAt]
  exact lookupCell_paint ..

/-- Settles O43: the lock's answer decides, and a painted border holds at every place the spec's pixel. -/
theorem borderRenderPaintsAllOrNothing : Obligations.BorderRenderPaintsAllOrNothing := by
  intro s
  refine ⟨fun hlock => ⟨_, execBorderRender_paints hlock, rfl, fun a => ?_, fun y x hy hx => ?_⟩, execBorderRender_denied⟩
  · rw [lookupCell_paintBorder]
    split
    · next ha => exact iff_of_true rfl ha
    · next ha => exact iff_of_false nofun ha
  · have hdiv : (256 * y + x) / 256 = y := by omega
    have hmod : (256 * y + x) % 256 = x := by omega
    rw [lookupCell_paintBorder, if_pos (by omega), hdiv, hmod]

end Sys2Proof.Machine
end

section
/-! O46, O51, O55, O7: what holds of every step, from reset on: it goes on, it keeps the configuration (R6, R360), and a
frame's last step completes the calls of R356. -/

namespace Sys2Proof.Machine

variable {s t : State}

/-! ### Reset and progress (R350, R380) -/

theorem resetOf_inv (cfg : Config) : (State.resetOf cfg).Inv where
  noIssue := rfl
  mems := rfl
  clock := rfl
  line := Nat.zero_le _
  column := Nat.zero_le _
  count := Nat.zero_le _
  shapes := nofun
  phases := ⟨rfl, rfl⟩

/-- Settles O7: nothing is running and no memory is written after reset; the reset state is one of a configuration. -/
theorem resetMeetsInvariant : Obligations.ResetMeetsInvariant := ⟨resetOf_inv _, resetOf_inv⟩

/-- Settles O46: each phase's part of the invariant supplies what the operation of that phase needs. -/
theorem invariantStepAnswersNext : Obligations.InvariantStepAnswersNext := fun _ => exists_step_of_inv

/-! ### The configuration (R6, R42, R360) -/

@[simp] theorem State.takeFault_cfg (s : State) (r : Report) : (s.takeFault r).cfg = s.cfg := by
  unfold State.takeFault State.releaseBuffer
  split <;> rfl

@[simp] theorem State.takeRequest_cfg (s : State) (q : HostRequest) : (s.takeRequest q).cfg = s.cfg := by
  cases q <;> rfl

/-- Every command leaves the configuration alone, from any state. -/
theorem exec_cfg {i : Instr} (h : exec i s = .next t) : t.cfg = s.cfg := by
  cases i
  case evLcdc | evScx | evScy | evWx => cases h; rfl
  case evBgp | evObp0 | evObp1 => cases h; rw [monoLatched_frame]; rfl
  case evPalbyte c off d => rw [(evPalbyte_frame (c := c) h).1]
  case maskNormal | maskFrozen | maskBlack | maskColor | maskWhite => cases h; rfl
  case maskDispatch => obtain ⟨-, m, rfl⟩ := maskDispatch_frame h; rfl
  case idle => obtain rfl | ⟨q, rest, -, rfl⟩ := execIdle_cases h <;> simp
  case frameBegin => obtain rfl | ⟨inp, -, ⟨r, rfl⟩ | ⟨-, rfl⟩⟩ := execFrameBegin_cases h <;> simp
  case bufLock => obtain ⟨stride, rfl⟩ | rfl := execBufLock_cases h <;> simp
  case fill => obtain ⟨c, n, -, rfl⟩ := fill_frame h; rfl
  case frameLoad => obtain ⟨inp, -, rfl⟩ := execFrameLoad_next h; rfl
  case palReload => rw [palReload_frame h]
  case lineStart => rw [(lineStart_frame h).1]
  case lineBlank => rw [lineBlank_frame h]
  case objSearch => rw [objSearch_frame h]
  case pixel => obtain ⟨_, -, -, -, hf⟩ := pixel_frame h; rw [hf]
  case bgFetch => rw [bgFetch_frame h]
  case winFetch => rw [winFetch_frame h]
  case objPick => cases h; simp
  case prioMux | palLookup | lineEnd | bufUnlock | present | frameEnd => cases h; rfl
  case pixWrite => obtain ⟨-, -, rfl⟩ := pixWrite_frame h; rfl
  case borderRender => obtain rfl | rfl := execBorderRender_cases h <;> rfl
  case setColorPalette => cases h; exact State.setStore_cfg ..
  case setMonoPalette => cases h; rw [storeMono_frame]

/-- Settles O51: command by command, from the frame of each. -/
theorem configurationNeverChanges : Obligations.ConfigurationNeverChanges := fun _ _ _ => exec_cfg

/-! ### The calls of a frame (R356) -/

/-- Settles O55: at FRAME_END the invariant has the calls up to `render`, and the step adds the last one. -/
theorem completedFrameCallsInOrder : Obligations.CompletedFrameCallsInOrder := by
  intro s t hs hp h
  obtain ⟨inp, -, -, hsig⟩ :
      ∃ inp, Running s inp ∧ s.locked = none ∧ s.signals = drawCalls s.mask ++ [.render] := by
    simpa only [PhaseInv, hp] using hs.phases
  rw [step_phase hs.noIssue, hp] at h
  cases h
  refine ⟨rfl, rfl, rfl, ?_⟩
  rw [State.setPhase_signals, State.emit_signals, hsig, drawCalls]
  split <;> rfl

end Sys2Proof.Machine
end

section
/-! O58, the replay: two states that agree on what LINE_START reads and on the store a frame can show still agree after
it, since every event writes both alike (R151 to R159). -/

namespace Sys2Proof.Machine

variable {s t s' t' : State} {v : Views}

/-! ### The part of the palette store that a frame can show (R41, R93) -/

/-- The stores agree in every palette that a frame of the hardware mode can show. -/
abbrev StoreAlike (s t : State) : Prop :=
  ∀ half p e, paletteUsed s.cfg.hwMode half p = true → s.storeAt half p e = t.storeAt half p e

/-- When MONO each palette in use is some target's (R41). -/
theorem exists_monoDest_of_paletteUsed {half : Bool} {p : BitVec 3} (h : paletteUsed .mono half p = true) :
    ∃ m, monoDest m = (half, p) := by
  cases half with
  | false =>
    obtain rfl : p = 0 := by simpa [paletteUsed] using h
    exact ⟨.bg, rfl⟩
  | true =>
    obtain rfl | rfl : p = 0 ∨ p = 1 := by simpa [paletteUsed] using h
    · exact ⟨.obj0, rfl⟩
    · exact ⟨.obj1, rfl⟩

/-- Two coherent stores with the same source agree wherever a frame can read them (R93). -/
theorem storeAlike_of_coherent (hs : Coherent s) (ht : Coherent t) (hcfg : s.cfg = t.cfg) (hregs : s.regs = t.regs)
    (hviews : s.views = t.views) (hv : s.views = some v) : StoreAlike s t := by
  intro half p e hused
  cases hm : s.cfg.hwMode with
  | color =>
    rw [(coherent_color_iff hm).1 hs v hv, (coherent_color_iff (hcfg ▸ hm)).1 ht v (hviews ▸ hv), hcfg]
  | mono =>
    obtain ⟨m, hdest⟩ := exists_monoDest_of_paletteUsed (hm ▸ hused)
    have hsm := (coherent_mono_iff hm).1 hs m e
    have htm := (coherent_mono_iff (hcfg ▸ hm)).1 ht m e
    rw [hdest] at hsm htm
    rw [hsm, htm, hcfg, hregs]

/-! ### What a replay cannot tell apart (R151) -/

/-- Two states agree on everything the replay of timed events reads or writes. -/
structure ReplayAlike (s t : State) : Prop where
  cfg : s.cfg = t.cfg
  regs : s.regs = t.regs
  clk : s.clk = t.clk
  rp : s.rp = t.rp
  pp : s.pp = t.pp
  views : s.views = t.views
  store : StoreAlike s t

namespace ReplayAlike

theorem setRegs (h : ReplayAlike s t) (f : Regs → Regs) : ReplayAlike (s.setRegs f) (t.setRegs f) :=
  { h with regs := congrArg f h.regs }

theorem monoLatched (h : ReplayAlike s t) (d : Byte) (m : MonoTarget) :
    ReplayAlike (s.monoLatched d m) (t.monoLatched d m) := by
  have hstore (half p e) (hused : paletteUsed s.cfg.hwMode half p = true) :
      (s.monoLatched d m).storeAt half p e = (t.monoLatched d m).storeAt half p e := by
    rw [storeAt_monoLatched, storeAt_monoLatched, h.cfg, h.store half p e hused]
  rw [monoLatched_frame s, monoLatched_frame t]
  exact { h with store := hstore }

theorem applyRegisterEvent {i : Instr} (h : ReplayAlike s t) (hs : Machine.applyRegisterEvent i s = .next s')
    (ht : Machine.applyRegisterEvent i t = .next t') : ReplayAlike s' t' := by
  cases i
  case evLcdc | evScx | evScy | evWx => cases hs; cases ht; exact h.setRegs _
  case evBgp | evObp0 | evObp1 => cases hs; cases ht; exact (h.setRegs _).monoLatched _ _
  all_goals cases hs

theorem execEvPalbyte (c : BitVec 32) (off : BitVec 7) (d : Byte) (h : ReplayAlike s t)
    (hs : Machine.execEvPalbyte c off d s = .next s') (ht : Machine.execEvPalbyte c off d t = .next t') :
    ReplayAlike s' t' := by
  obtain ⟨hm, v, hv⟩ := evPalbyte_next hs
  obtain ⟨a, ha, hsf, hsat⟩ := evPalbyte_ok c off d hm hv
  obtain ⟨b, hb, htf, htat⟩ := evPalbyte_ok c off d (h.cfg ▸ hm) (h.views ▸ hv)
  cases hs.symm.trans ha
  cases ht.symm.trans hb
  have hstore (half p e) (hused : paletteUsed s.cfg.hwMode half p = true) :
      s'.storeAt half p e = t'.storeAt half p e := by
    rw [hsat, htat, h.cfg, h.store half p e hused]
  rw [hsf, htf]
  exact { h with views := rfl, store := hstore }

theorem applyPaletteEvent {i : Instr} (h : ReplayAlike s t) (hs : Machine.applyPaletteEvent i s = .next s')
    (ht : Machine.applyPaletteEvent i t = .next t') : ReplayAlike s' t' := by
  cases i
  case evPalbyte c off d => exact h.execEvPalbyte c off d hs ht
  all_goals cases hs

theorem nextRegister (h : ReplayAlike s t) : ReplayAlike { s with rp := s.rp + 1 } { t with rp := t.rp + 1 } :=
  { h with rp := congrArg (· + 1) h.rp }

theorem nextPalette (h : ReplayAlike s t) : ReplayAlike { s with pp := s.pp + 1 } { t with pp := t.pp + 1 } :=
  { h with pp := congrArg (· + 1) h.pp }

theorem replayRegisters {log : List (BitVec 64)} (h : ReplayAlike s t)
    (hs : Machine.replayRegisters log s = .next s') (ht : Machine.replayRegisters log t = .next t') :
    ReplayAlike s' t' := by
  induction log generalizing s t with
  | nil => cases hs; cases ht; exact h
  | cons w log ih =>
    simp only [Machine.replayRegisters, ← h.clk] at hs ht
    by_cases hdue : (recClock w).toNat ≤ s.clk
    · rw [if_pos hdue] at hs ht
      cases hi : decodeEvt w with
      | error r => rw [hi] at hs; cases hs
      | ok i =>
        rw [hi] at hs ht
        obtain ⟨a, ha, hs⟩ := andThen_eq_next.1 hs
        obtain ⟨b, hb, ht⟩ := andThen_eq_next.1 ht
        exact ih (h.applyRegisterEvent ha hb).nextRegister hs ht
    · rw [if_neg hdue] at hs ht
      cases hs; cases ht; exact h

theorem replayPalette {log : List (BitVec 64)} (h : ReplayAlike s t)
    (hs : Machine.replayPalette log s = .next s') (ht : Machine.replayPalette log t = .next t') :
    ReplayAlike s' t' := by
  induction log generalizing s t with
  | nil => cases hs; cases ht; exact h
  | cons w log ih =>
    simp only [Machine.replayPalette, ← h.clk] at hs ht
    by_cases hdue : (recClock w).toNat < s.clk
    · rw [if_pos hdue] at hs ht
      cases hi : decodeEvt w with
      | error r => rw [hi] at hs; cases hs
      | ok i =>
        rw [hi] at hs ht
        obtain ⟨a, ha, hs⟩ := andThen_eq_next.1 hs
        obtain ⟨b, hb, ht⟩ := andThen_eq_next.1 ht
        exact ih (h.applyPaletteEvent ha hb).nextPalette hs ht
    · rw [if_neg hdue] at hs ht
      cases hs; cases ht; exact h

theorem execLineStart (h : ReplayAlike s t) (hinput : s.input = t.input) (hs : Machine.execLineStart s = .next s')
    (ht : Machine.execLineStart t = .next t') : ReplayAlike s' t' := by
  unfold Machine.execLineStart at hs ht
  rw [← hinput] at ht
  cases hinp : s.input with
  | none => rw [hinp] at hs; cases hs
  | some inp =>
    rw [hinp] at hs ht
    obtain ⟨a, ha, hs⟩ := andThen_eq_next.1 hs
    obtain ⟨b, hb, ht⟩ := andThen_eq_next.1 ht
    have hab := h.replayRegisters ha (h.rp ▸ hb)
    obtain ⟨c, hc, hs⟩ := andThen_eq_next.1 hs
    obtain ⟨d, hd, ht⟩ := andThen_eq_next.1 ht
    have hcd := hab.replayPalette hc (hab.pp ▸ hd)
    cases hs; cases ht
    exact { hcd with }

end ReplayAlike

end Sys2Proof.Machine
end

section
/-! O57, O58: two engines in the line loop of one frame take matching steps and draw the same pixels (R287, R382), and
FRAME_LOAD with PAL_RELOAD brings any two engines there (R185, R314). -/

namespace Sys2Proof.Machine

variable {s t s' t' : State} {v : Views}

/-! ### How much each operation of the line loop adds to the part drawn (R285, R316, R317) -/

theorem drawn_execLineStart (hp : s.phase = .lineStart) (h : execLineStart s = .next t) : t.drawn = s.drawn := by
  have hly : t.ly = s.ly := by rw [(lineStart_frame h).1]
  obtain hphase | hphase := execLineStart_phase h <;> simp only [State.drawn, hp, hphase, hly]

theorem drawn_execPixel (hp : s.phase = .pixel) (h : execPixel s = .next t) : t.drawn = s.drawn + 1 := by
  obtain ⟨o, -, -, -, hf⟩ := pixel_frame h
  rw [hf]
  by_cases hend : s.x + 1 = width
  · simp only [State.drawn, hp, if_pos hend, Nat.mul_succ]
    omega
  · simp only [State.drawn, hp, if_neg hend, Nat.add_assoc]

theorem drawn_execLineEnd (hp : s.phase = .lineEnd) (h : execLineEnd s = .next t) : t.drawn = s.drawn := by
  cases h
  by_cases hend : s.ly + 1 = lines <;> simp [State.drawn, hp, State.setPhase, hend]

namespace Alike

theorem replayAlike (h : Alike s t) (hp : s.phase ≠ .palReload) : ReplayAlike s t :=
  ⟨h.cfg, h.regs, h.clk, h.rp, h.pp, h.views, h.store hp⟩

/-- Steps that leave both buffers alone and draw nothing more keep the agreement of the pixels drawn. -/
theorem pixels_of_same_drawn (h : Alike s t) (hs : s'.fb = s.fb) (ht : t'.fb = t.fb) (hdrawn : s'.drawn = s.drawn) :
    ∀ a, a < s'.drawn → lookupCell a s'.fb = lookupCell a t'.fb := by
  rw [hs, ht, hdrawn]
  exact h.pixels

/-- PAL_RELOAD makes both stores copies of the same source; nothing is drawn yet (R93, R185). -/
theorem palReload (h : Alike s t) (hv : s.views = some v) (hly : s.ly = 0) (hs : execPalReload s = .next s')
    (ht : execPalReload t = .next t') : Alike s' t' := by
  have hcoh := coherent_of_execPalReload hs
  have hcoh' := coherent_of_execPalReload ht
  rw [palReload_frame hs] at hcoh ⊢
  rw [palReload_frame ht] at hcoh' ⊢
  refine { h with
    phase := rfl
    cands := nofun
    store := fun _ => storeAlike_of_coherent hcoh hcoh' h.cfg h.regs h.views hv
    pixels := fun a ha => absurd ha ?nothing }
  case nothing => simp only [State.drawn, hly, Nat.mul_zero, Nat.not_lt_zero, not_false_eq_true]

/-- LINE_START replays the same events on both (R151). -/
theorem lineStart (h : Alike s t) (hp : s.phase = .lineStart) (hs : execLineStart s = .next s')
    (ht : execLineStart t = .next t') : Alike s' t' := by
  have hr := (h.replayAlike (by rw [hp]; nofun)).execLineStart h.input hs ht
  have hphase : s'.phase = t'.phase := by rw [execLineStart_phase_eq hs, execLineStart_phase_eq ht, hr.regs]
  have hnotPixel : s'.phase ≠ .pixel := by obtain hq | hq := execLineStart_phase hs <;> rw [hq] <;> nofun
  have hdrawn := drawn_execLineStart hp hs
  have hsf := (lineStart_frame hs).1
  have htf := (lineStart_frame ht).1
  have hsfb : s'.fb = s.fb := by rw [hsf]
  have htfb : t'.fb = t.fb := by rw [htf]
  have hpixels := h.pixels_of_same_drawn hsfb htfb hdrawn
  rw [hsf] at hr hpixels ⊢
  rw [htf] at hr hpixels ⊢
  exact { h with
    regs := hr.regs, rp := hr.rp, pp := hr.pp, views := hr.views, phase := hphase
    cands := fun hq => absurd hq hnotPixel
    store := fun _ => hr.store
    pixels := hpixels }

/-- LINE_BLANK writes the same white line over both (R316). -/
theorem lineBlank (h : Alike s t) (hp : s.phase = .lineBlank) (hly : s.ly < lines) (hs : execLineBlank s = .next s')
    (ht : execLineBlank t = .next t') : Alike s' t' := by
  obtain ⟨a, ha, -, hsfb⟩ := lineBlankWhitensTheLine s hly
  obtain ⟨b, hb, -, htfb⟩ := lineBlankWhitensTheLine t (h.ly ▸ hly)
  cases hs.symm.trans ha
  cases ht.symm.trans hb
  have hdrawn : s.drawn = 160 * s.ly := by simp only [State.drawn, hp]; rfl
  have hpixels (a : Nat) (ha : a < 160 * (s.ly + 1)) : lookupCell a s'.fb = lookupCell a t'.fb := by
    rw [hsfb, htfb, ← h.ly, ← h.cfg]
    split
    · rfl
    · exact h.pixels a (by omega)
  rw [lineBlank_frame hs, lineBlank_frame ht]
  exact { h with
    phase := rfl, cands := nofun, store := fun _ => h.store (by rw [hp]; nofun), pixels := hpixels }

/-- OBJ_SEARCH finds the same candidates from both (R210, R222). -/
theorem objSearch (h : Alike s t) (hp : s.phase = .objSearch) (hs : execObjSearch s = .next s')
    (ht : execObjSearch t = .next t') : Alike s' t' := by
  obtain ⟨found, hfound, hs⟩ := bind_eq_ok.1 (ofExcept_eq_next.1 hs)
  rw [execObjSearch_eq ((searchLine_congr h.cfg h.views h.regs h.ly).symm.trans hfound)] at ht
  cases hs; cases ht
  exact { h with
    phase := rfl, x := rfl, cands := fun _ => rfl, store := fun _ => h.store (by rw [hp]; nofun)
    pixels := h.pixels_of_same_drawn rfl rfl (by simp only [State.drawn, hp]; rfl) }

/-- PIXEL writes the same pixel at the same place, whatever the cursors hold: it depends on `FETCH`, the candidates and
the palettes in use (R286, R287). -/
theorem pixel (h : Alike s t) (hp : s.phase = .pixel) (hshapes : ∀ c ∈ s.cands, c.shaped s.cfg.hwMode)
    (hs : execPixel s = .next s') (ht : execPixel t = .next t') : Alike s' t' := by
  have hdrawn := drawn_execPixel hp hs
  have hplace : s.drawn = fbIndex s.ly s.x := by simp only [State.drawn, hp, fbIndex]
  have hcands := h.cands hp
  have hstore := h.store (by rw [hp]; nofun)
  obtain ⟨o, ho, -, -, hsf⟩ := pixel_frame hs
  obtain ⟨o', ho', -, -, htf⟩ := pixel_frame ht
  rw [← fetchValue_congr h.cfg h.views h.regs h.ly h.x, ho] at ho'
  cases ho'
  have hcolumn := columnPixel_congr h.cfg h.x o (pickCandidate s.x s.cands)
    (fun c hc => (hshapes c (pickCandidate_mem hc)).2) hstore
  have hpixels (a : Nat) (ha : a < s'.drawn) : lookupCell a s'.fb = lookupCell a t'.fb := by
    rw [hsf, htf, lookupCell_insertCell, lookupCell_insertCell, ← h.ly, ← h.x, ← hcands, ← hcolumn]
    split
    · rfl
    · exact h.pixels a (by omega)
  rw [hsf] at hpixels ⊢
  rw [htf] at hpixels ⊢
  exact { h with
    x := congrArg (· + 1) h.x, phase := by rw [h.x], cands := fun _ => hcands, store := fun _ => hstore
    pixels := hpixels }

/-- LINE_END moves both to the next line, or to the end of the screen (R317). -/
theorem lineEnd (h : Alike s t) (hp : s.phase = .lineEnd) (hs : execLineEnd s = .next s')
    (ht : execLineEnd t = .next t') : Alike s' t' := by
  have hdrawn := drawn_execLineEnd hp hs
  cases hs; cases ht
  have hnotPixel : (if s.ly + 1 = lines then Phase.bufUnlock else .lineStart) ≠ .pixel := by split <;> nofun
  exact { h with
    phase := by simp only [State.setPhase_phase, h.ly]
    x := rfl
    ly := congrArg (· + 1) h.ly
    clk := congrArg (· + lineClocks) h.clk
    cands := fun hq => absurd hq hnotPixel
    store := fun _ => h.store (by rw [hp]; nofun)
    pixels := h.pixels_of_same_drawn rfl rfl hdrawn }

/-- Steps taken by both from a phase of the line loop lead to states that are alike again. -/
theorem step_of_both (h : Alike s t) (hsi : s.Inv) (hti : t.Inv) (hnormal : normalPhase s.phase = true)
    (hs : step s = .next s') (ht : step t = .next t') : Alike s' t' := by
  have hphase := hsi.phases
  rw [step_phase hsi.noIssue] at hs
  rw [step_phase hti.noIssue, ← h.phase] at ht
  cases hp : s.phase <;> rw [hp] at hs ht hnormal <;> simp only [PhaseInv, hp] at hphase
  case palReload =>
    obtain ⟨inp, ⟨-, -, ⟨-, hviews⟩, -⟩, hly, -⟩ := hphase
    exact h.palReload hviews hly hs ht
  case lineStart => exact h.lineStart hp hs ht
  case lineBlank =>
    obtain ⟨inp, ⟨-, -, -, hly⟩, -⟩ := hphase
    exact h.lineBlank hp hly hs ht
  case objSearch => exact h.objSearch hp hs ht
  case pixel => exact h.pixel hp hsi.shapes hs ht
  case lineEnd => exact h.lineEnd hp hs ht
  all_goals cases hnormal

/-- When the buffer is unlocked the part drawn is the whole of it (R310). -/
theorem fbPixel_eq (h : Alike s t) (hp : s.phase = .bufUnlock) {ly x : Nat} (hl : ly < lines) (hx : x < width) :
    s.fbPixel ly x = t.fbPixel ly x := by
  have hdrawn : s.drawn = Space.fb.size := by simp only [State.drawn, hp]; rfl
  exact h.pixels _ (hdrawn ▸ fbIndex_lt hl hx)

/-- FRAME_LOAD of the same input leaves two engines alike, whatever each did before (R314). -/
theorem of_frameLoad {inp : FrameInput} (hcfg : s.cfg = t.cfg) (hmask : s.mask = t.mask) (hs : s.input = some inp)
    (ht : t.input = some inp) (hs' : execFrameLoad s = .next s') (ht' : execFrameLoad t = .next t') : Alike s' t' := by
  cases (frameLoadCopiesSnapshot s inp hs).symm.trans hs'
  cases (frameLoadCopiesSnapshot t inp ht).symm.trans ht'
  exact ⟨hcfg, hs.trans ht.symm, rfl, rfl, rfl, rfl, rfl, rfl, rfl, hmask, rfl, nofun, fun hq => absurd rfl hq, nofun⟩

end Alike

/-- Settles O58: the second engine's step exists by its invariant, and the operations of the line loop keep the two
alike. -/
theorem alikeStatesDrawTheSameFrame : Obligations.AlikeStatesDrawTheSameFrame := by
  refine ⟨fun s t s' hsi hti h hnormal hs => ?_, fun s t hp h ly x => h.fbPixel_eq hp⟩
  obtain ⟨t', ht⟩ := exists_step_of_inv hti
  exact ⟨t', ht, h.step_of_both hsi hti hnormal hs ht⟩

/-- At FRAME_LOAD a Normal frame is running on its input (R304, R314). -/
theorem State.Inv.input_of_frameLoad (hs : s.Inv) (hp : s.phase = .frameLoad) :
    (∃ inp, s.input = some inp) ∧ s.mask = .normal := by
  obtain ⟨inp, ⟨⟨-, hinp, -⟩, -⟩, hmask⟩ : ∃ inp, Drawing s inp ∧ s.mask = .normal := by
    simpa only [PhaseInv, hp] using hs.phases
  exact ⟨⟨inp, hinp⟩, hmask⟩

/-- Settles O57: FRAME_LOAD leaves the two alike but for the store, and PAL_RELOAD is a step of the line loop. -/
theorem frameLoadForgetsThePast : Obligations.FrameLoadForgetsThePast := by
  intro s t hsi hti hsp htp hcfg hinput
  obtain ⟨⟨inp, hinp⟩, hsmask⟩ := hsi.input_of_frameLoad hsp
  obtain ⟨-, htmask⟩ := hti.input_of_frameLoad htp
  obtain ⟨s₁, hs₁⟩ := exists_step_of_inv hsi
  obtain ⟨t₁, ht₁⟩ := exists_step_of_inv hti
  have hsi₁ := everyStepKeepsInvariant s s₁ hsi hs₁
  have hti₁ := everyStepKeepsInvariant t t₁ hti ht₁
  obtain ⟨s₂, hs₂⟩ := exists_step_of_inv hsi₁
  obtain ⟨t₂, ht₂⟩ := exists_step_of_inv hti₁
  have hsload := hs₁
  have htload := ht₁
  rw [step_phase hsi.noIssue, hsp] at hsload
  rw [step_phase hti.noIssue, htp] at htload
  have hloaded : Alike s₁ t₁ :=
    .of_frameLoad hcfg (hsmask.trans htmask.symm) hinp (hinput ▸ hinp) hsload htload
  have hnormal : normalPhase s₁.phase = true := by
    obtain ⟨_, -, rfl⟩ := execFrameLoad_next hsload
    rfl
  exact ⟨s₂, t₂, (run_succ hs₁ 1).trans (run_succ hs₂ 0), (run_succ ht₁ 1).trans (run_succ ht₂ 0),
    hloaded.step_of_both hsi₁ hti₁ hnormal hs₂ ht₂⟩

end Sys2Proof.Machine
end
